-- ==== Sys2Proof/Word.lean ====
section
/-!
DEFINITION. The word types of RTE-BSC: 32-bit registers and addresses, bytes, register numbers,
phase numbers (00_scope.md R7, 10_state.md R20, 30_encoding.md R85).
-/

namespace Sys2Proof

/-- A general register, a CSR, an address or a command word: 32 bits (00_scope.md R7). -/
abbrev Word := BitVec 32

/-- The smallest addressable unit of memory (20_memory.md R60). -/
abbrev Byte := BitVec 8

/-- A register number: X0..X15 (10_state.md R20). -/
abbrev Reg := Fin 16

/-- A phase of a block: 0 (even samples) or 1 (odd samples) (20_memory.md R83). -/
abbrev Phase := Fin 2

end Sys2Proof
end

