-- ==== Sys2Proof/Syntax.lean ====
section
/-!
DEFINITION. The syntax of BSC-1: the CSR names of 10_state.md R27 and the 24 commands of
30_encoding.md R89, one constructor of `Instr` per row of spec/opcode_table.json.
-/

namespace Sys2Proof

/-- The defined CSRs, in the order of the table of 10_state.md R27. -/
inductive Csr where
  | id | ctrl | status | cmdBase | cp | cmdCount | faultCode | faultInfo
  | rng
  | brPtr | brRem | brBufl | brBufh | brCnt
  | bwPtr | bwRem | bwAcc | bwCnt
  | tcBp0 | tcBp1 | tcBp2 | tcBp3
  | gWidth | gHeight | gStride | gSrclen
  deriving DecidableEq, Repr

/-- One BSC-1 command (30_encoding.md R89).  Register operands and immediates are already pulled out
of the word; `n` is a bit count as the six bits that can be nonzero in a legal one, so a count of
33..63 can be written and is ill-formed (30_encoding.md R87, R90(c)). -/
inductive Instr where
  /-- NOP (40_control.md R102). -/
  | nop
  /-- STOP (40_control.md R101). -/
  | stop
  /-- LI rd, imm16 (40_control.md R103). -/
  | li (rd : Reg) (imm : BitVec 16)
  /-- LUI rd, imm16 (40_control.md R104). -/
  | lui (rd : Reg) (imm : BitVec 16)
  /-- CSRR rd, csr (40_control.md R105). -/
  | csrr (rd : Reg) (csr : Csr)
  /-- CSRW csr, rs (40_control.md R106). -/
  | csrw (csr : Csr) (rs : Reg)
  /-- BR.INIT ra, rl (42_bit_reader.md R152). -/
  | brInit (ra rl : Reg)
  /-- BR.PEEK rd, n (42_bit_reader.md R153). -/
  | brPeek (rd : Reg) (n : BitVec 6)
  /-- BR.GET rd, n (42_bit_reader.md R154). -/
  | brGet (rd : Reg) (n : BitVec 6)
  /-- BR.SKIP n (42_bit_reader.md R155). -/
  | brSkip (n : BitVec 6)
  /-- BW.INIT ra, rl (43_bit_writer.md R165). -/
  | bwInit (ra rl : Reg)
  /-- BW.PUT rs, n (43_bit_writer.md R166). -/
  | bwPut (rs : Reg) (n : BitVec 6)
  /-- BW.FIN rd (43_bit_writer.md R167). -/
  | bwFin (rd : Reg)
  /-- TC.BUILD (41_tone_curve.md R130). -/
  | tcBuild
  /-- TC.DITH rd, rs (41_tone_curve.md R131). -/
  | tcDith (rd rs : Reg)
  /-- TC.RLK rd, rs (41_tone_curve.md R132). -/
  | tcRlk (rd rs : Reg)
  /-- TC.CTR rd, rs (41_tone_curve.md R133). -/
  | tcCtr (rd rs : Reg)
  /-- TC.BD rd, rs (41_tone_curve.md R134). -/
  | tcBd (rd rs : Reg)
  /-- DC.DPH ra, j (44_decoder.md R182). -/
  | dcDph (ra : Reg) (j : Phase)
  /-- DC.EPH ra, j (45_encoder.md R203). -/
  | dcEph (ra : Reg) (j : Phase)
  /-- DC.DROW ra, rb (44_decoder.md R183). -/
  | dcDrow (ra rb : Reg)
  /-- DC.EROW ra, rb (45_encoder.md R204). -/
  | dcErow (ra rb : Reg)
  /-- DC.DEC ra, rb (44_decoder.md R184). -/
  | dcDec (ra rb : Reg)
  /-- DC.ENC ra, rb (45_encoder.md R205). -/
  | dcEnc (ra rb : Reg)
  deriving DecidableEq, Repr

end Sys2Proof
end

