-- ==== Sys2Proof/WellFormed.lean ====
section
/-!
DEFINITION. Which terms of `Instr` are commands of BSC-1: the one check the types leave is
n ≤ 32 on a bit count (30_encoding.md R87, R88, R90(c)).
-/

namespace Sys2Proof

/-- A bit count of BR.PEEK, BR.GET, BR.SKIP or BW.PUT is legal when it is 0..32 (30_encoding.md R88). -/
def widthLegal (n : BitVec 6) : Bool := n.toNat ≤ 32

/-- The command is one a legal word can encode (30_encoding.md R90). -/
def Instr.wellFormed : Instr → Bool
  | .brPeek _ n => widthLegal n
  | .brGet _ n => widthLegal n
  | .brSkip n => widthLegal n
  | .bwPut _ n => widthLegal n
  | .nop | .stop | .li _ _ | .lui _ _ | .csrr _ _ | .csrw _ _ | .brInit _ _ | .bwInit _ _
  | .bwFin _ | .tcBuild | .tcDith _ _ | .tcRlk _ _ | .tcCtr _ _ | .tcBd _ _ | .dcDph _ _
  | .dcEph _ _ | .dcDrow _ _ | .dcErow _ _ | .dcDec _ _ | .dcEnc _ _ => true

end Sys2Proof
end

