-- ==== Sys2Proof/Decode.lean ====
section
/-!
DEFINITION. Decoding a command word (30_encoding.md R85 to R92) and, after it, the encoder, both
written from the tables of 30_encoding.md R85, R87, R89 and 10_state.md R27.
-/

namespace Sys2Proof

/-- Why a word is illegal (30_encoding.md R90): (a) the opcode, (b) a register field that the command
does not use, (c) the immediate; `short` is not a word at all: fewer than four bytes were given. -/
inductive Illegal where
  | opcode | fieldA | fieldB | imm | short
  deriving DecidableEq, Repr

/-- The four fields of format F (30_encoding.md R85). -/
structure Fields where
  op : BitVec 8
  a : Reg
  b : Reg
  imm : BitVec 16
  deriving DecidableEq, Repr

/-- The fields of a word (30_encoding.md R85). -/
def fieldsOf (w : Word) : Fields where
  op := w.extractLsb' 24 8
  a := (w.extractLsb' 20 4).toFin
  b := (w.extractLsb' 16 4).toFin
  imm := w.extractLsb' 0 16

/-- The word with the given fields: `(op << 24) | (A << 20) | (B << 16) | IMM` (30_encoding.md R85). -/
def wordOf (f : Fields) : Word :=
  (f.op ++ BitVec.ofFin (w := 4) f.a ++ BitVec.ofFin (w := 4) f.b ++ f.imm : BitVec (8 + 4 + 4 + 16))

/-- The number of a CSR (10_state.md R27). -/
def csrNum : Csr → BitVec 8
  | .id => 0x00 | .ctrl => 0x01 | .status => 0x02 | .cmdBase => 0x03
  | .cp => 0x04 | .cmdCount => 0x05 | .faultCode => 0x06 | .faultInfo => 0x07
  | .rng => 0x10 | .brPtr => 0x11 | .brRem => 0x12 | .brBufl => 0x13
  | .brBufh => 0x14 | .brCnt => 0x15 | .bwPtr => 0x18 | .bwRem => 0x19
  | .bwAcc => 0x1A | .bwCnt => 0x1B | .tcBp0 => 0x20 | .tcBp1 => 0x21
  | .tcBp2 => 0x22 | .tcBp3 => 0x23 | .gWidth => 0x28 | .gHeight => 0x29
  | .gStride => 0x2A | .gSrclen => 0x2B

/-- The CSR with a given number; every other number is undefined (10_state.md R27, R28). -/
def csrOfNum (n : Nat) : Option Csr :=
  match n with
  | 0x00 => some .id | 0x01 => some .ctrl | 0x02 => some .status | 0x03 => some .cmdBase
  | 0x04 => some .cp | 0x05 => some .cmdCount | 0x06 => some .faultCode | 0x07 => some .faultInfo
  | 0x10 => some .rng | 0x11 => some .brPtr | 0x12 => some .brRem | 0x13 => some .brBufl
  | 0x14 => some .brBufh | 0x15 => some .brCnt | 0x18 => some .bwPtr | 0x19 => some .bwRem
  | 0x1A => some .bwAcc | 0x1B => some .bwCnt | 0x20 => some .tcBp0 | 0x21 => some .tcBp1
  | 0x22 => some .tcBp2 | 0x23 => some .tcBp3 | 0x28 => some .gWidth | 0x29 => some .gHeight
  | 0x2A => some .gStride | 0x2B => some .gSrclen
  | _ => none

/-- The five kinds of IMM (30_encoding.md R87). -/
inductive ImmKind where
  | imm16 | n | j | csr | zero
  deriving DecidableEq, Repr

/-- The legal range of IMM of each kind (30_encoding.md R87, R92). -/
def immLegal (k : ImmKind) (imm : BitVec 16) : Bool :=
  match k with
  | .imm16 => true
  | .n => imm.toNat ≤ 32
  | .j => imm.toNat ≤ 1
  | .csr => (csrOfNum imm.toNat).isSome
  | .zero => imm == 0#16

/-- The checks of a row of the opcode map, in the order of 30_encoding.md R92: an unused A, an unused
B, then the range of IMM; `i` is the command when all pass. -/
def accept (f : Fields) (usesA usesB : Bool) (k : ImmKind) (i : Instr) : Except Illegal Instr :=
  if !usesA && f.a != 0 then .error .fieldA
  else if !usesB && f.b != 0 then .error .fieldB
  else if !immLegal k f.imm then .error .imm
  else .ok i

/-- IMM as a bit count; used only where `immLegal .n` holds. -/
def immCount (imm : BitVec 16) : BitVec 6 := imm.setWidth 6

/-- IMM as a phase number; used only where `immLegal .j` holds. -/
def immPhase (imm : BitVec 16) : Phase := (imm.setWidth 1).toFin

/-- IMM as a CSR; used only where `immLegal .csr` holds. -/
def immCsr (imm : BitVec 16) : Csr := (csrOfNum imm.toNat).getD .id

/-- The decode of a word, a pure function of it (30_encoding.md R86, R89, R92). -/
def decode (w : Word) : Except Illegal Instr :=
  let f := fieldsOf w
  match f.op.toNat with
  | 0x00 => accept f false false .zero .nop
  | 0x01 => accept f false false .zero .stop
  | 0x02 => accept f true false .imm16 (.li f.a f.imm)
  | 0x03 => accept f true false .imm16 (.lui f.a f.imm)
  | 0x04 => accept f true false .csr (.csrr f.a (immCsr f.imm))
  | 0x05 => accept f false true .csr (.csrw (immCsr f.imm) f.b)
  | 0x10 => accept f true true .zero (.brInit f.a f.b)
  | 0x11 => accept f true false .n (.brPeek f.a (immCount f.imm))
  | 0x12 => accept f true false .n (.brGet f.a (immCount f.imm))
  | 0x13 => accept f false false .n (.brSkip (immCount f.imm))
  | 0x18 => accept f true true .zero (.bwInit f.a f.b)
  | 0x19 => accept f false true .n (.bwPut f.b (immCount f.imm))
  | 0x1A => accept f true false .zero (.bwFin f.a)
  | 0x20 => accept f false false .zero .tcBuild
  | 0x21 => accept f true true .zero (.tcDith f.a f.b)
  | 0x22 => accept f true true .zero (.tcRlk f.a f.b)
  | 0x23 => accept f true true .zero (.tcCtr f.a f.b)
  | 0x24 => accept f true true .zero (.tcBd f.a f.b)
  | 0x30 => accept f true false .j (.dcDph f.a (immPhase f.imm))
  | 0x31 => accept f true false .j (.dcEph f.a (immPhase f.imm))
  | 0x32 => accept f true true .zero (.dcDrow f.a f.b)
  | 0x33 => accept f true true .zero (.dcErow f.a f.b)
  | 0x34 => accept f true true .zero (.dcDec f.a f.b)
  | 0x35 => accept f true true .zero (.dcEnc f.a f.b)
  | _ => .error .opcode

/-- The value of bytes laid out little-endian (20_memory.md R63). -/
def leWord : List Byte → Nat
  | [] => 0
  | b :: bs => b.toNat + 256 * leWord bs

/-- The k low bytes of v, least significant first (20_memory.md R63). -/
def leBytes : Nat → Nat → List Byte
  | 0, _ => []
  | k + 1, v => BitVec.ofNat 8 v :: leBytes k (v / 256)

/-- Decoding the bytes of memory at a command: always exactly one 4-byte word (30_encoding.md R85,
R86); the rest of the bytes is handed back. -/
def decodeBytes : List Byte → Except Illegal (Instr × List Byte)
  | b0 :: b1 :: b2 :: b3 :: rest =>
    (decode (BitVec.ofNat 32 (leWord [b0, b1, b2, b3]))).map (·, rest)
  | _ => .error .short

/-- The fields of a command (30_encoding.md R87, R89): an unused field is 0. -/
def encodeFields : Instr → Fields
  | .nop => ⟨0x00, 0, 0, 0⟩
  | .stop => ⟨0x01, 0, 0, 0⟩
  | .li rd imm => ⟨0x02, rd, 0, imm⟩
  | .lui rd imm => ⟨0x03, rd, 0, imm⟩
  | .csrr rd c => ⟨0x04, rd, 0, (csrNum c).setWidth 16⟩
  | .csrw c rs => ⟨0x05, 0, rs, (csrNum c).setWidth 16⟩
  | .brInit ra rl => ⟨0x10, ra, rl, 0⟩
  | .brPeek rd n => ⟨0x11, rd, 0, n.setWidth 16⟩
  | .brGet rd n => ⟨0x12, rd, 0, n.setWidth 16⟩
  | .brSkip n => ⟨0x13, 0, 0, n.setWidth 16⟩
  | .bwInit ra rl => ⟨0x18, ra, rl, 0⟩
  | .bwPut rs n => ⟨0x19, 0, rs, n.setWidth 16⟩
  | .bwFin rd => ⟨0x1A, rd, 0, 0⟩
  | .tcBuild => ⟨0x20, 0, 0, 0⟩
  | .tcDith rd rs => ⟨0x21, rd, rs, 0⟩
  | .tcRlk rd rs => ⟨0x22, rd, rs, 0⟩
  | .tcCtr rd rs => ⟨0x23, rd, rs, 0⟩
  | .tcBd rd rs => ⟨0x24, rd, rs, 0⟩
  | .dcDph ra j => ⟨0x30, ra, 0, BitVec.ofNat 16 j.val⟩
  | .dcEph ra j => ⟨0x31, ra, 0, BitVec.ofNat 16 j.val⟩
  | .dcDrow ra rb => ⟨0x32, ra, rb, 0⟩
  | .dcErow ra rb => ⟨0x33, ra, rb, 0⟩
  | .dcDec ra rb => ⟨0x34, ra, rb, 0⟩
  | .dcEnc ra rb => ⟨0x35, ra, rb, 0⟩

/-- The word of a command (30_encoding.md R85, R89). -/
def encode (i : Instr) : Word := wordOf (encodeFields i)

/-- The instruction the decoder reads from an opcode-table row's bits, laid out in memory as four
little-endian bytes; bits above `nbits` are 0. -/
def decodeTableWord (nbits w : Nat) : Option Instr :=
  match decodeBytes (leBytes 4 (w % 2 ^ nbits)) with
  | .ok (i, _) => some i
  | .error _ => none

end Sys2Proof
end

