-- ==== Sys2Proof/Config.lean ====
section
/-!
DEFINITION. What is fixed for the block (the ID value, the shape of the TC table, what an unlisted
byte of memory holds) and the two free values of the spec: what the host reads from a busy register, and
which value a racing access gets.
-/

namespace Sys2Proof.Config

/-- The constant of the ID register, "BSC1" (10_state.md R29). -/
def idValue : Word := 0x42534331#32

/-- The number of entries of the TC table, TC_N (00_scope.md R6, 10_state.md R41). -/
def tcSize : Nat := 4096

/-- What a byte of memory reads as when nothing has been stored there since the model's launch.
DESIGN CHOICE (log entry 2): the spec says only that memory holds what the platform holds
(10_state.md R53).  Unsafe: a proof can lean on this zero. -/
def unlistedByte : Byte := 0#8

/-- The n-th value a host read of a busy register other than STATUS, CP and CMD_COUNT returns: any
value (10_state.md R48, 93_implementation_defined.md I5).  A free value: it has no body (log entry 7).
Safe: nothing can be proved of it. -/
opaque busyRead : Nat → Word

/-- Which of the values it can give the n-th racing memory access gives (20_memory.md R73,
93_implementation_defined.md I22): a draw.  A free value: it has no body (log entry 8).  Safe: nothing can
be proved of it. -/
opaque raceChoice : Nat → Nat

end Sys2Proof.Config
end

