-- ==== Sys2Proof/Machine/State.lean ====
section
/-!
DEFINITION. The state of RTE-BSC as plain data (10_state.md), the events the host and the platform can
cause, the reasons a step can stop, and the state after reset (10_state.md R51 to R53).
-/

namespace Sys2Proof.Machine

/-- Memory: (address, byte) pairs, addresses strictly rising, no entry equal to `Config.unlistedByte`,
which an unlisted address reads as (20_memory.md R60, R61; log entry 2). -/
abbrev Memory := List Host.Cell

/-- The bit reader (10_state.md R37): the byte cursor BR_PTR, the bytes left BR_REM, the bit buffer
BR_BUF and the count of valid bits BR_CNT. -/
structure BitReader where
  ptr : Word
  rem : Word
  buf : BitVec 64
  cnt : BitVec 6
  deriving DecidableEq, Repr

/-- The bit writer (10_state.md R38): the next output byte BW_PTR, the bytes the window still accepts
BW_REM, the accumulator BW_ACC and the count of valid bits BW_CNT, as they are between commands. -/
structure BitWriter where
  ptr : Word
  rem : Word
  acc : BitVec 8
  cnt : BitVec 3
  deriving DecidableEq, Repr

/-- One entry of the TC table: TC_C, TC_B and TC_D (10_state.md R41). -/
structure TcEntry where
  center : BitVec 16
  base : BitVec 16
  delta : BitVec 16
  deriving DecidableEq, Repr

/-- One write of a byte during a run: its address, the value it replaced, and whether the host made it. -/
structure PastWrite where
  addr : Word
  old : Byte
  byHost : Bool
  deriving DecidableEq, Repr

/-- A range of byte addresses, both ends in it, that the platform does not back with memory. -/
structure Hole where
  first : Nat
  last : Nat
  deriving DecidableEq, Repr

/-- What the agents outside the block can do to it between two commands (10_state.md R46 to R48,
70_reset_and_hazards.md R245, R247, R250).  `seq` lets the sequencer move. -/
inductive HostEvent where
  /-- No host action: the sequencer moves. -/
  | seq
  /-- The host writes `value` with an access of `size` bytes at `addr` of its address space. -/
  | regWrite (addr size : Nat) (value : Word)
  /-- The host reads with an access of `size` bytes at `addr` of its address space. -/
  | regRead (addr size : Nat)
  /-- The host, or another agent on the memory (60_exceptions.md R233; log entry 16), writes one byte of the
  system memory. -/
  | memWrite (addr : Word) (value : Byte)
  /-- The host, or another agent on the memory, reads one byte of the system memory. -/
  | memRead (addr : Word)
  /-- The platform asserts the reset input.  During a run it lands after the first `kept` byte writes of
  the command then in progress (70_reset_and_hazards.md R247). -/
  | reset (kept : Nat)
  deriving DecidableEq, Repr

/-- The whole machine. -/
structure State where
  /-- X0..X15 (10_state.md R20). -/
  x : Vector Word 16
  /-- CP, the command pointer (10_state.md R23, R33). -/
  cp : Word
  /-- CTRL.IE_DONE (10_state.md R30). -/
  ieDone : Bool
  /-- CTRL.IE_FAULT (10_state.md R30). -/
  ieFault : Bool
  /-- STATUS.BUSY (10_state.md R31). -/
  busy : Bool
  /-- STATUS.DONE (10_state.md R31). -/
  done : Bool
  /-- STATUS.FAULT (10_state.md R31). -/
  fault : Bool
  /-- STATUS.TC_VALID (10_state.md R31, R42). -/
  tcValid : Bool
  /-- CMD_BASE (10_state.md R32). -/
  cmdBase : Word
  /-- CMD_COUNT (10_state.md R34). -/
  cmdCount : Word
  /-- FAULT_CODE[7:0] (10_state.md R35). -/
  faultCode : BitVec 8
  /-- FAULT_INFO (10_state.md R35). -/
  faultInfo : Word
  /-- RNG, the dithering state (10_state.md R36). -/
  rng : Word
  /-- The bit reader (10_state.md R37). -/
  br : BitReader
  /-- The bit writer (10_state.md R38). -/
  bw : BitWriter
  /-- TC_BP0[15:0] (10_state.md R39). -/
  tcBp0 : BitVec 16
  /-- TC_BP1[15:0] (10_state.md R39). -/
  tcBp1 : BitVec 16
  /-- TC_BP2[15:0] (10_state.md R39). -/
  tcBp2 : BitVec 16
  /-- TC_BP3[15:0] (10_state.md R39). -/
  tcBp3 : BitVec 16
  /-- G_WIDTH (10_state.md R40). -/
  gWidth : Word
  /-- G_HEIGHT (10_state.md R40). -/
  gHeight : Word
  /-- G_STRIDE (10_state.md R40). -/
  gStride : Word
  /-- G_SRCLEN (10_state.md R40). -/
  gSrclen : Word
  /-- The TC table, entry i at position i (10_state.md R41). -/
  tc : List TcEntry
  /-- The system memory (20_memory.md R60). -/
  mem : Memory
  /-- The writes made to memory since GO, newest first: which values a byte has held during the run, and
  which of them the host wrote (20_memory.md R73, 93_implementation_defined.md I22; log entry 8). -/
  past : List PastWrite
  /-- The block is stuck on an access to a byte that is not admitted (20_memory.md R62). -/
  hung : Bool
  /-- MemAdmit as data: the ranges of bytes the platform does NOT back (20_memory.md R62, log entry 3). -/
  holes : List Hole
  /-- MMIO_BASE, where the host sees the register window (10_state.md R46, log entry 4). -/
  mmioBase : Nat
  /-- The model's own: how many more byte writes land before the reset input does, while a reset during
  a command is worked out (70_reset_and_hazards.md R247, log entry 10); `none` between steps. -/
  writesLeft : Option Nat
  /-- The model's own: the events still to come, oldest first (log entry 6). -/
  inputs : List HostEvent
  /-- The model's own: what the host's last read returned (log entry 7). -/
  hostData : Word
  /-- The model's own: how many free values have been drawn (log entries 7 and 8). -/
  draws : Nat
  deriving DecidableEq, Repr

/-- Why a step stops the model: nothing does.  A fault of the SPEC is a next state (60_exceptions.md R218),
so is a stuck access (20_memory.md R62), and so is a race (20_memory.md R73), which draws a value. -/
inductive Fault where
  deriving DecidableEq, Repr

/-- Why a step has no meaning. -/
inductive Refusal where
  /-- Raised by an arm of `exec` for a command that has no meaning yet.  Safe: the model stops. -/
  | notModelled (mnemonic : String)
  /-- Raised by a host register event that reaches the window and is not an aligned 32-bit access (10_state.md R46,
  93_implementation_defined.md I20: the model has no such access).  Safe (log entry 9). -/
  | hostAccess
  /-- Raised by a host memory event at a byte the platform does not back with plain memory: a device,
  outside the spec (20_memory.md R70).  Safe (log entry 9). -/
  | hostOutsideMemory
  deriving DecidableEq, Repr

/-- The machine right after reset (10_state.md R51 to R53, 70_reset_and_hazards.md R245).  The TC table's
contents are unspecified (10_state.md R52): DESIGN CHOICE all zero, log entry 1, which no command can
observe.  Memory, platform and model fields: log entries 2, 3, 4, 6, 7, 10. -/
def State.reset : State where
  x := Vector.replicate 16 0#32
  cp := 0#32
  ieDone := false
  ieFault := false
  busy := false
  done := false
  fault := false
  tcValid := false
  cmdBase := 0#32
  cmdCount := 0#32
  faultCode := 0#8
  faultInfo := 0#32
  rng := 0#32
  br := ⟨0#32, 0#32, 0#64, 0#6⟩
  bw := ⟨0#32, 0#32, 0#8, 0#3⟩
  tcBp0 := 0#16
  tcBp1 := 0#16
  tcBp2 := 0#16
  tcBp3 := 0#16
  gWidth := 0#32
  gHeight := 0#32
  gStride := 0#32
  gSrclen := 0#32
  tc := List.replicate Config.tcSize ⟨0#16, 0#16, 0#16⟩
  mem := []
  past := []
  hung := false
  holes := []
  mmioBase := 0
  writesLeft := none
  inputs := []
  hostData := 0#32
  draws := 0

end Sys2Proof.Machine
end

