-- ==== Sys2Proof/Machine/Ops.lean ====
section
/-!
DEFINITION. The shared operations: memory (20_memory.md R61 to R67), registers (10_state.md R20), the
sequencer's bookkeeping (40_control.md R100), taking a fault and returning from it (60_exceptions.md
R218, R223), and the result of a primitive step, which ends in a value, a fault or a stuck access.
-/

namespace Sys2Proof.Machine

/-! ### Results of primitives -/

/-- The fault causes (60_exceptions.md R216). -/
inductive FaultCode where
  | illegalCommand | csrAccess | readOverrun | writeOverrun | residualBits | tableNotBuilt
  | curveConfig | operandRange | phaseOrder | invalidGeometry | bitUnderflow
  deriving DecidableEq, Repr

/-- The 8-bit code of a fault (60_exceptions.md R216). -/
def faultNum : FaultCode → BitVec 8
  | .illegalCommand => 1
  | .csrAccess => 2
  | .readOverrun => 3
  | .writeOverrun => 4
  | .residualBits => 5
  | .tableNotBuilt => 6
  | .curveConfig => 7
  | .operandRange => 8
  | .phaseOrder => 9
  | .invalidGeometry => 10
  | .bitUnderflow => 11

/-- What a primitive step leaves: a value and the state, or the fault it raises with the state of every
step completed before it (60_exceptions.md R219), or a stuck access with the accesses made before it
(20_memory.md R61, R62). -/
inductive Res (α : Type) where
  | ok (a : α) (s : State)
  | raise (c : FaultCode) (info : Word) (s : State)
  | stuck (s : State)
  deriving DecidableEq, Repr

/-- Going on with the next primitive: a primitive that raises a fault ends the whole command at that
point (00_scope.md R11), and a stuck access has no step after it (20_memory.md R62). -/
def Res.bind {α β : Type} (r : Res α) (f : α → State → Res β) : Res β :=
  match r with
  | .ok a s => f a s
  | .raise c info s => .raise c info s
  | .stuck s => .stuck s

/-- `for i in start .. start + count - 1`: the body for each i in ascending order, stopping at the first
fault or stuck access. -/
def forRange (body : Nat → State → Res Unit) : Nat → Nat → State → Res Unit
  | 0, _, s => .ok () s
  | count + 1, start, s => (body start s).bind fun _ t => forRange body count (start + 1) t

/-! ### Bits -/

/-- `mask(n) = 2^n - 1` (00_scope.md R9). -/
def mask (n : Nat) : Nat := 2 ^ n - 1

/-- The position of the highest set bit plus one, 0 for 0 (00_scope.md R9). -/
def bitlength (v : Nat) : Nat := if v = 0 then 0 else Nat.log2 v + 1

/-- `|a - b|` (00_scope.md R9). -/
def absDiff (a b : Nat) : Nat := (a - b) + (b - a)

/-! ### Memory -/

/-- One byte: an unlisted address reads as `Config.unlistedByte`. -/
def Memory.read : Memory → Nat → Byte
  | [], _ => Config.unlistedByte
  | (k, v) :: m, a => if k = a then v else Memory.read m a

/-- Storing one byte, keeping the canonical form: storing what an unlisted address reads as leaves the
address unlisted. -/
def Memory.write : Memory → Nat → Byte → Memory
  | [], a, b => if b = Config.unlistedByte then [] else [(a, b)]
  | (k, v) :: m, a, b =>
    if a < k then (if b = Config.unlistedByte then (k, v) :: m else (a, b) :: (k, v) :: m)
    else if a = k then (if b = Config.unlistedByte then m else (a, b) :: m)
    else (k, v) :: Memory.write m a b

/-- The canonical form of a memory all of whose addresses are at least `low`. -/
def Memory.wfFrom : Nat → Memory → Bool
  | _, [] => true
  | low, (k, v) :: m =>
    decide (low ≤ k) && decide (k < 2 ^ 32) && decide (v ≠ Config.unlistedByte) && Memory.wfFrom (k + 1) m

/-- The canonical form: addresses strictly rising and below 2^32 (20_memory.md R60), no entry equal to
what an unlisted address reads as. -/
def Memory.wf (m : Memory) : Bool := m.wfFrom 0

/-- MemAdmit: the platform backs this byte with plain memory (20_memory.md R62). -/
def State.admits (s : State) (a : Word) : Bool :=
  s.holes.all fun h => !(decide (h.first ≤ a.toNat) && decide (a.toNat ≤ h.last))

/-- A write of one byte of memory, kept in the record of the run's writes (log entry 8). -/
def State.storeByte (s : State) (byHost : Bool) (a : Word) (b : Byte) : State :=
  { s with mem := s.mem.write a.toNat b, past := ⟨a, s.mem.read a.toNat, byHost⟩ :: s.past }

/-- The newest value of a byte that the host did not write: the block's own last write, or what the byte held
at GO.  `now` is its value after the recorded writes, newest first (20_memory.md R73, R74). -/
def ownValue (a : Word) (now : Byte) : List PastWrite → Byte
  | [] => now
  | w :: ws => if w.addr = a then (if w.byHost then ownValue a w.old ws else now) else ownValue a now ws

/-- The values the host wrote to a byte during the run, newest first (20_memory.md R73). -/
def hostValues (a : Word) (now : Byte) : List PastWrite → List Byte
  | [] => []
  | w :: ws =>
    if w.addr = a then (if w.byHost then now :: hostValues a w.old ws else hostValues a w.old ws)
    else hostValues a now ws

/-- The block has written this byte during the run (20_memory.md R73). -/
def State.blockWrote (s : State) (a : Word) : Bool := s.past.any fun w => w.addr = a && !w.byHost

/-- The values earlier writes of the run replaced at a byte, newest first (93_implementation_defined.md I22). -/
def State.heldBefore (s : State) (a : Word) : List Byte := (s.past.filter (·.addr = a)).map (·.old)

/-- The next draw, out of one value or more (93_implementation_defined.md I22; log entry 8). -/
def State.draw (s : State) (v : Byte) (vs : List Byte) : Byte :=
  (v :: vs).getD (Config.raceChoice s.draws % (vs.length + 1)) v

/-- One draw has been made. -/
def State.drawn (s : State) : State := { s with draws := s.draws + 1 }

/-- The block reads one byte: its value; where the host wrote it during the run a race, the block's own old
value or one the host wrote (20_memory.md R73, R74). -/
def State.loadByte (s : State) (a : Word) : Byte × State :=
  match hostValues a (s.mem.read a.toNat) s.past with
  | [] => (s.mem.read a.toNat, s)
  | vs => (s.draw (ownValue a (s.mem.read a.toNat) s.past) vs, s.drawn)

/-- `MemRead(addr, n)`: byte by byte in ascending order, little-endian, addresses mod 2^32; stuck at a byte that
is not admitted (20_memory.md R61, R63, R67). -/
def memRead : Word → Nat → State → Res Nat
  | _, 0, s => .ok 0 s
  | a, n + 1, s =>
    if s.admits a then
      (memRead (a + 1) n (s.loadByte a).2).bind fun high t => .ok ((s.loadByte a).1.toNat + 256 * high) t
    else .stuck s

/-- Storing one byte of memory; `none` at a byte that is not admitted (20_memory.md R61), and where a
reset during the command lands before this write (70_reset_and_hazards.md R247, log entry 10). -/
def State.writeByte (s : State) (a : Word) (b : Byte) : Option State :=
  if s.admits a && s.writesLeft != some 0 then
    some { s.storeByte false a b with writesLeft := s.writesLeft.map (· - 1) }
  else none

/-- `MemWrite(addr, n, v)`: the n low bytes of v from a up, byte by byte in ascending order, addresses
mod 2^32; the bytes before one that is not admitted are already written (20_memory.md R61, R63, R67). -/
def memWrite : Nat → Word → Nat → State → Res Unit
  | 0, _, _, s => .ok () s
  | n + 1, a, v, s =>
    match s.writeByte a (BitVec.ofNat 8 v) with
    | none => .stuck s
    | some t => memWrite n (a + 1) (v / 256) t

/-! ### General registers -/

/-- `x[i]` (10_state.md R20). -/
def State.getX (s : State) (r : Reg) : Word := s.x[r]

/-- `x[i] <- v` (10_state.md R20). -/
def State.setX (s : State) (r : Reg) (v : Word) : State := { s with x := s.x.set r v }

/-! ### The sequencer's bookkeeping and faults -/

/-- A command other than STOP has completed: it is counted and CP advances by 4, both mod 2^32
(40_control.md R100, 10_state.md R24, R25). -/
def State.retire (s : State) : State := { s with cmdCount := s.cmdCount + 1, cp := s.cp + 4 }

/-- STOP has completed: it is counted, BUSY falls, DONE rises, CP keeps the STOP's address
(40_control.md R100, R101). -/
def State.stopRun (s : State) : State := { s with cmdCount := s.cmdCount + 1, busy := false, done := true }

/-- Taking a fault (60_exceptions.md R218): the code and the information word are saved, FAULT rises and
BUSY falls; CP and CMD_COUNT keep the faulting command's. -/
def State.enterFault (s : State) (c : FaultCode) (info : Word) : State :=
  { s with faultCode := faultNum c, faultInfo := info, fault := true, busy := false }

/-- GO, the block's return from a fault and the start of every run (60_exceptions.md R223): no write of the
run has been made yet. -/
def State.go (s : State) : State :=
  { s with done := false, fault := false, faultCode := 0#8, faultInfo := 0#32, cmdCount := 0#32,
           cp := s.cmdBase, busy := true, past := [] }

/-- The block is stuck: BUSY stays 1, no fault is recorded (20_memory.md R62, log entry 5). -/
def State.hang (s : State) : State := { s with hung := true }

/-- The end of every command but STOP (40_control.md R100): completed, faulted or stuck, each a next
state. -/
def conclude (r : Res Unit) : Host.Outcome State Fault Refusal :=
  match r with
  | .ok _ s => .next s.retire
  | .raise c info s => .next (s.enterFault c info)
  | .stuck s => .next s.hang

end Sys2Proof.Machine
end

