-- ==== Sys2Proof/Machine/Flags.lean ====
section
/-!
DEFINITION. The block has no flags (10_state.md R26).  Its only status bits are the fields of CTRL and
STATUS (10_state.md R30, R31), given here as the words software sees, and the level IRQ computed from
them (60_exceptions.md R224).
-/

namespace Sys2Proof.Machine

/-- CTRL as it is read: GO reads 0, bits 31:3 read 0 (10_state.md R30). -/
def State.ctrlWord (s : State) : Word := BitVec.ofNat 32 (2 * s.ieDone.toNat + 4 * s.ieFault.toNat)

/-- STATUS as it is read: bits 31:4 read 0 (10_state.md R31). -/
def State.statusWord (s : State) : Word :=
  BitVec.ofNat 32 (s.busy.toNat + 2 * s.done.toNat + 4 * s.fault.toNat + 8 * s.tcValid.toNat)

/-- The level of the interrupt output (60_exceptions.md R224). -/
def State.irq (s : State) : Bool := (s.done && s.ieDone) || (s.fault && s.ieFault)

/-- A host write to STATUS: DONE and FAULT are write-1-to-clear, the rest is unchanged
(10_state.md R31). -/
def State.writeStatus (s : State) (v : Word) : State :=
  { s with done := s.done && !v.getLsbD 1, fault := s.fault && !v.getLsbD 2 }

/-- A host write to the interrupt enables of CTRL (10_state.md R30). -/
def State.writeEnables (s : State) (v : Word) : State :=
  { s with ieDone := v.getLsbD 1, ieFault := v.getLsbD 2 }

end Sys2Proof.Machine
end

