-- ==== Sys2Proof/Machine/Operands.lean ====
section
/-!
DEFINITION. The operand forms: bit counts (30_encoding.md R88, R90), CSRs read and written by a command
(40_control.md R105, R106), table operands (41_tone_curve.md R131 to R134), sample addresses
(20_memory.md R67, R83).
-/

namespace Sys2Proof.Machine

/-- The check of a bit count (30_encoding.md R90(c)): a count above 32 makes the command illegal, which is
checked before any effect and raises ILLEGAL_COMMAND with the whole word.  The decoder has already
refused such a word; this says the same of the term `i` (log entry 14). -/
def withCount (i : Instr) (n : BitVec 6) (s : State) (r : Res Unit) : Res Unit :=
  if widthLegal n then r else .raise .illegalCommand (encode i) s

/-- The 32-bit value of a CSR as the host or CSRR reads it, reserved bits 0 (10_state.md R27 to R40). -/
def State.readCsr (s : State) : Csr → Word
  | .id => Config.idValue
  | .ctrl => s.ctrlWord
  | .status => s.statusWord
  | .cmdBase => s.cmdBase
  | .cp => s.cp
  | .cmdCount => s.cmdCount
  | .faultCode => s.faultCode.setWidth 32
  | .faultInfo => s.faultInfo
  | .rng => s.rng
  | .brPtr => s.br.ptr
  | .brRem => s.br.rem
  | .brBufl => s.br.buf.extractLsb' 0 32
  | .brBufh => s.br.buf.extractLsb' 32 32
  | .brCnt => s.br.cnt.setWidth 32
  | .bwPtr => s.bw.ptr
  | .bwRem => s.bw.rem
  | .bwAcc => s.bw.acc.setWidth 32
  | .bwCnt => s.bw.cnt.setWidth 32
  | .tcBp0 => s.tcBp0.setWidth 32
  | .tcBp1 => s.tcBp1.setWidth 32
  | .tcBp2 => s.tcBp2.setWidth 32
  | .tcBp3 => s.tcBp3.setWidth 32
  | .gWidth => s.gWidth
  | .gHeight => s.gHeight
  | .gStride => s.gStride
  | .gSrclen => s.gSrclen

/-- The write of a CSR that a command may write, with its effects; `none` for every other CSR
(40_control.md R106).  A write to TC_BPn drops bits 31:16 and clears TC_VALID (10_state.md R39). -/
def State.writeCsr (s : State) (c : Csr) (v : Word) : Option State :=
  match c with
  | .rng => some { s with rng := v }
  | .tcBp0 => some { s with tcBp0 := v.setWidth 16, tcValid := false }
  | .tcBp1 => some { s with tcBp1 := v.setWidth 16, tcValid := false }
  | .tcBp2 => some { s with tcBp2 := v.setWidth 16, tcValid := false }
  | .tcBp3 => some { s with tcBp3 := v.setWidth 16, tcValid := false }
  | .gWidth => some { s with gWidth := v }
  | .gHeight => some { s with gHeight := v }
  | .gStride => some { s with gStride := v }
  | .gSrclen => some { s with gSrclen := v }
  | .id | .ctrl | .status | .cmdBase | .cp | .cmdCount | .faultCode | .faultInfo | .brPtr | .brRem
  | .brBufl | .brBufh | .brCnt | .bwPtr | .bwRem | .bwAcc | .bwCnt => none

/-- Every reader of the TC table raises TABLE_NOT_BUILT while TC_VALID = 0, before any other effect
(10_state.md R42, 60_exceptions.md R217). -/
def requireTable (s : State) : Res Unit :=
  if s.tcValid then .ok () s else .raise .tableNotBuilt 0#32 s

/-- A register operand of the TC commands that must be below `limit` (41_tone_curve.md R131 to R134). -/
def requireBelow (limit : Nat) (v : Word) (s : State) : Res Unit :=
  if v.toNat < limit then .ok () s else .raise .operandRange v s

/-- The address of element i of phase j of the block at `base`: block sample j + 2i
(20_memory.md R67, R83). -/
def sampleAddr (base : Word) (j i : Nat) : Word := base + BitVec.ofNat 32 (2 * (j + 2 * i))

/-- The address of block b of a row of samples at `base` (44_decoder.md R180, 45_encoder.md R201). -/
def blockAddr (base : Word) (b : Nat) : Word := base + BitVec.ofNat 32 (64 * b)

end Sys2Proof.Machine
end

