-- ==== Sys2Proof/Machine/BitReader.lean ====
section
/-!
DEFINITION. The bit-reader unit: Refill, Peek, Consume, Get (42_bit_reader.md R146 to R149) and the
commands BR.INIT, BR.PEEK, BR.GET, BR.SKIP (R152 to R155).
-/

namespace Sys2Proof.Machine

/-- Opening a reader window (42_bit_reader.md R145, R152; 44_decoder.md R180). -/
def State.openReader (s : State) (ptr rem : Word) : State := { s with br := ⟨ptr, rem, 0#64, 0#6⟩ }

/-- The reader after a refill with the word w (42_bit_reader.md R146). -/
def refilled (r : BitReader) (w : Nat) : BitReader where
  ptr := r.ptr + 4
  rem := r.rem - 4
  buf := r.buf ||| (BitVec.ofNat 64 w <<< r.cnt.toNat)
  cnt := r.cnt + 32

/-- `Refill` (42_bit_reader.md R146). -/
def refill (s : State) : Res Unit :=
  if s.br.rem.toNat < 4 then .raise .readOverrun s.br.ptr s
  else (memRead s.br.ptr 4 s).bind fun w t => .ok () { t with br := refilled t.br w }

/-- `Peek(n)`: at most one refill, then the low n bits of the buffer (42_bit_reader.md R147). -/
def peek (n : Nat) (s : State) : Res Word :=
  (if s.br.cnt.toNat < n then refill s else .ok () s).bind fun _ t =>
    .ok (BitVec.ofNat 32 (t.br.buf.toNat &&& mask n)) t

/-- `Consume(n)` (42_bit_reader.md R148). -/
def consume (n : Nat) (s : State) : Res Unit :=
  if s.br.cnt.toNat < n then .raise .bitUnderflow (BitVec.ofNat 32 n) s
  else .ok () { s with br := { s.br with buf := s.br.buf >>> n, cnt := s.br.cnt - BitVec.ofNat 6 n } }

/-- `Get(n)` (42_bit_reader.md R149). -/
def getBits (n : Nat) (s : State) : Res Word :=
  if n = 0 then .ok 0#32 s
  else (peek n s).bind fun v t => (consume n t).bind fun _ u => .ok v u

/-- BR.INIT (42_bit_reader.md R152). -/
def execBrInit (ra rl : Reg) (s : State) : Host.Outcome State Fault Refusal :=
  conclude (.ok () (s.openReader (s.getX ra) (s.getX rl)))

/-- BR.PEEK (42_bit_reader.md R153). -/
def execBrPeek (rd : Reg) (n : BitVec 6) (s : State) : Host.Outcome State Fault Refusal :=
  conclude (withCount (.brPeek rd n) n s ((peek n.toNat s).bind fun v t => .ok () (t.setX rd v)))

/-- BR.GET (42_bit_reader.md R154). -/
def execBrGet (rd : Reg) (n : BitVec 6) (s : State) : Host.Outcome State Fault Refusal :=
  conclude (withCount (.brGet rd n) n s ((getBits n.toNat s).bind fun v t => .ok () (t.setX rd v)))

/-- BR.SKIP (42_bit_reader.md R155). -/
def execBrSkip (n : BitVec 6) (s : State) : Host.Outcome State Fault Refusal :=
  conclude (withCount (.brSkip n) n s (consume n.toNat s))

end Sys2Proof.Machine
end

