-- ==== Sys2Proof/Machine/BitWriter.lean ====
section
/-!
DEFINITION. The bit-writer unit: Push and Finish (43_bit_writer.md R161, R162) and the commands BW.INIT,
BW.PUT, BW.FIN (R165 to R167).
-/

namespace Sys2Proof.Machine

/-- Opening a writer window (43_bit_writer.md R160, R165; 45_encoder.md R201). -/
def State.openWriter (s : State) (ptr rem : Word) : State := { s with bw := ⟨ptr, rem, 0#8, 0#3⟩ }

/-- The loop of `Push`: `count` bytes of the accumulator leave it, low byte first, each written at BW_PTR
(43_bit_writer.md R161).  The accumulator of up to 39 bits is a temporary of the command
(10_state.md R38, R43). -/
def emitBytes : Nat → Nat → State → Res Unit
  | 0, _, s => .ok () s
  | count + 1, acc, s =>
    (memWrite 1 s.bw.ptr (acc &&& 0xFF) s).bind fun _ t =>
      emitBytes count (acc >>> 8) { t with bw := { t.bw with ptr := t.bw.ptr + 1, rem := t.bw.rem - 1 } }

/-- The accumulator with the low n bits of v above its valid bits (43_bit_writer.md R161). -/
def pushAcc (w : BitWriter) (v n : Nat) : Nat := w.acc.toNat ||| ((v &&& mask n) <<< w.cnt.toNat)

/-- How many whole bytes a push of n bits emits (43_bit_writer.md R161). -/
def pushBytes (w : BitWriter) (n : Nat) : Nat := (w.cnt.toNat + n) / 8

/-- `Push(v, n)` (43_bit_writer.md R161): the overrun check comes before any byte is emitted. -/
def push (v n : Nat) (s : State) : Res Unit :=
  if s.bw.rem.toNat < pushBytes s.bw n then .raise .writeOverrun s.bw.ptr s
  else
    (emitBytes (pushBytes s.bw n) (pushAcc s.bw v n) s).bind fun _ t =>
      .ok () { t with bw := { t.bw with
        acc := BitVec.ofNat 8 (pushAcc s.bw v n >>> (8 * pushBytes s.bw n))
        cnt := BitVec.ofNat 3 (s.bw.cnt.toNat + n - 8 * pushBytes s.bw n) } }

/-- `Finish()`: the end pointer, or RESIDUAL_BITS (43_bit_writer.md R162). -/
def finish (s : State) : Res Word :=
  if s.bw.cnt ≠ 0#3 then .raise .residualBits (s.bw.cnt.setWidth 32) s else .ok s.bw.ptr s

/-- BW.INIT (43_bit_writer.md R165). -/
def execBwInit (ra rl : Reg) (s : State) : Host.Outcome State Fault Refusal :=
  conclude (.ok () (s.openWriter (s.getX ra) (s.getX rl)))

/-- BW.PUT (43_bit_writer.md R166). -/
def execBwPut (rs : Reg) (n : BitVec 6) (s : State) : Host.Outcome State Fault Refusal :=
  conclude (withCount (.bwPut rs n) n s (push (s.getX rs).toNat n.toNat s))

/-- BW.FIN (43_bit_writer.md R167). -/
def execBwFin (rd : Reg) (s : State) : Host.Outcome State Fault Refusal :=
  conclude ((finish s).bind fun v t => .ok () (t.setX rd v))

end Sys2Proof.Machine
end

