-- ==== Sys2Proof/Machine/Control.lean ====
section
/-!
DEFINITION. The control commands NOP, STOP, LI, LUI, CSRR and CSRW (40_control.md R101 to R106).
-/

namespace Sys2Proof.Machine

/-- NOP (40_control.md R102). -/
def execNop (s : State) : Host.Outcome State Fault Refusal := conclude (.ok () s)

/-- STOP (40_control.md R101). -/
def execStop (s : State) : Host.Outcome State Fault Refusal := .next s.stopRun

/-- LI: `x[A] <- zext_32(IMM)` (40_control.md R103). -/
def execLi (rd : Reg) (imm : BitVec 16) (s : State) : Host.Outcome State Fault Refusal :=
  conclude (.ok () (s.setX rd (imm.setWidth 32)))

/-- LUI: `x[A] <- (IMM << 16) | (x[A] & 0xFFFF)` (40_control.md R104). -/
def execLui (rd : Reg) (imm : BitVec 16) (s : State) : Host.Outcome State Fault Refusal :=
  conclude (.ok () (s.setX rd ((imm.setWidth 32 <<< 16) ||| (s.getX rd &&& 0xFFFF#32))))

/-- CSRR (40_control.md R105). -/
def execCsrr (rd : Reg) (c : Csr) (s : State) : Host.Outcome State Fault Refusal :=
  conclude (.ok () (s.setX rd (s.readCsr c)))

/-- CSRW: CSR_ACCESS with the CSR's number for a CSR commands may not write (40_control.md R106). -/
def execCsrw (c : Csr) (rs : Reg) (s : State) : Host.Outcome State Fault Refusal :=
  conclude (match s.writeCsr c (s.getX rs) with
    | some t => .ok () t
    | none => .raise .csrAccess ((csrNum c).setWidth 32) s)

end Sys2Proof.Machine
end

