-- ==== Sys2Proof/Machine/ToneCurve.lean ====
section
/-!
DEFINITION. The tone-curve unit: building the table (41_tone_curve.md R121 to R125), Dither (R126),
ReverseLookup (R128) and the commands TC.BUILD, TC.DITH, TC.RLK, TC.CTR, TC.BD (R130 to R134).
-/

namespace Sys2Proof.Machine

/-! ### Building the table -/

/-- The four breakpoints bp[1..4] (41_tone_curve.md R121). -/
structure Breakpoints where
  bp1 : Nat
  bp2 : Nat
  bp3 : Nat
  bp4 : Nat
  deriving DecidableEq, Repr

/-- A breakpoint from its constant: `(TC_BP >> 2) & 0xFFF` (41_tone_curve.md R121). -/
def breakpoint (v : BitVec 16) : Nat := (v.toNat >>> 2) &&& 0xFFF

/-- The breakpoints of the registers TC_BP0..TC_BP3 (41_tone_curve.md R121). -/
def State.breakpoints (s : State) : Breakpoints :=
  ⟨breakpoint s.tcBp0, breakpoint s.tcBp1, breakpoint s.tcBp2, breakpoint s.tcBp3⟩

/-- bp[0..5], with bp[0] = 0 and bp[5] = 4095 (41_tone_curve.md R121). -/
def breakpointList (b : Breakpoints) : List Nat := [0, b.bp1, b.bp2, b.bp3, b.bp4, 4095]

/-- The `count` centers after one of value c, each `stride` above the one before (41_tone_curve.md R122,
the inner loop). -/
def ramp (c stride count : Nat) : List Nat := (List.range count).map fun k => c + (k + 1) * stride

/-- The centers of segments i, i+1, ... after the code bp[i], whose center is c; the list starts at bp[i]
and segment i steps by 1 << i (41_tone_curve.md R122, the outer loop). -/
def segments : Nat → Nat → List Nat → List Nat
  | i, c, low :: high :: rest =>
    ramp c (1 <<< i) (high - low) ++ segments (i + 1) (c + (high - low) * (1 <<< i)) (high :: rest)
  | _, _, _ => []

/-- The center curve, code by code, curve[0] = 0 (41_tone_curve.md R122). -/
def curve (b : Breakpoints) : List Nat := 0 :: segments 0 0 (breakpointList b)

/-- A triple of the temporary table; its base is exact and may be negative (41_tone_curve.md R123, R124). -/
structure Triple where
  center : Nat
  base : Int
  delta : Nat
  deriving DecidableEq, Repr

/-- `Round4(d) = floor((d + 2) / 4)` (41_tone_curve.md R124). -/
def round4 (d : Nat) : Nat := (d + 2) / 4

/-- The triple of a code with its lower and upper neighbours' centers (41_tone_curve.md R123). -/
def tripleOf (lower center upper : Nat) : Triple where
  center := center
  base := if center = 0 then 0 else (center : Int) - (round4 (upper - lower) : Nat)
  delta := upper - lower

/-- The triples of the rest of a curve after a code of center `lower`; the last code has itself as its
upper neighbour (41_tone_curve.md R123). -/
def triplesFrom : Nat → List Nat → List Triple
  | _, [] => []
  | lower, [c] => [tripleOf lower c c]
  | lower, c :: upper :: rest => tripleOf lower c upper :: triplesFrom c (upper :: rest)

/-- The triples of a whole curve; the first code has itself as its lower neighbour
(41_tone_curve.md R123). -/
def triples (cs : List Nat) : List Triple := triplesFrom (cs.headD 0) cs

/-- Legality check (a): the smallest k in 1..3 with bp[k] > bp[k+1] (41_tone_curve.md R125). -/
def firstDescent (b : Breakpoints) : Option Nat :=
  if b.bp2 < b.bp1 then some 1 else if b.bp3 < b.bp2 then some 2 else if b.bp4 < b.bp3 then some 3 else none

/-- Legality check (b): the smallest i whose base is negative (41_tone_curve.md R125). -/
def firstNegative (t : List Triple) : Option Nat := t.findIdx? fun e => decide (e.base < 0)

/-- Legality check (c): the smallest i with base[i] > base[i+1] (41_tone_curve.md R125). -/
def firstDrop (t : List Triple) : Option Nat :=
  (t.zip t.tail).findIdx? fun p => decide (p.2.base < p.1.base)

/-- A legal triple stored in the 16-bit columns (41_tone_curve.md R123, R127). -/
def entryOf (t : Triple) : TcEntry where
  center := BitVec.ofNat 16 t.center
  base := BitVec.ofNat 16 t.base.toNat
  delta := BitVec.ofNat 16 t.delta

/-- The table of a breakpoint set, or the information word of CURVE_CONFIG for the first check that
fails (41_tone_curve.md R125, R130). -/
def buildTable (b : Breakpoints) : Except Word (List TcEntry) :=
  match firstDescent b with
  | some k => .error (BitVec.ofNat 32 k)
  | none =>
    match firstNegative (triples (curve b)) with
    | some i => .error (0x10000#32 ||| BitVec.ofNat 32 i)
    | none =>
      match firstDrop (triples (curve b)) with
      | some i => .error (0x20000#32 ||| BitVec.ofNat 32 i)
      | none => .ok ((triples (curve b)).map entryOf)

/-! ### The primitives -/

/-- Entry i of the TC table (10_state.md R41; log entry 15). -/
def State.tcEntry (s : State) (i : Nat) : TcEntry := s.tc.getD i ⟨0#16, 0#16, 0#16⟩

/-- The pixel of a table entry under the dithering state r (41_tone_curve.md R126), a 16-bit sample
(log entry 15). -/
def ditherPixel (e : TcEntry) (r : Word) : BitVec 16 :=
  BitVec.ofNat 16 (e.base.toNat + ((e.delta.toNat * (r.toNat &&& 0x7FF) + 1024) >>> 12))

/-- The linear congruential step `15700 * (r & 0xFFFF) + (r >> 16)` (41_tone_curve.md R126). -/
def lcg (r : Word) : Word := BitVec.ofNat 32 (15700 * (r.toNat &&& 0xFFFF) + (r.toNat >>> 16))

/-- `Dither(code)`: the pixel uses RNG from before the step (41_tone_curve.md R126). -/
def dither (code : Nat) (s : State) : Res (BitVec 16) :=
  .ok (ditherPixel (s.tcEntry code) s.rng) { s with rng := lcg s.rng }

/-- The lower bound of the binary search: the smallest k with TC_B[k] >= v, or the table's size
(41_tone_curve.md R128). -/
def lowerBound (tc : List TcEntry) (v : Nat) : Nat := tc.findIdx fun e => decide (v ≤ e.base.toNat)

/-- `|TC_C[k] - v|` (41_tone_curve.md R128). -/
def centerDist (tc : List TcEntry) (v k : Nat) : Nat :=
  absDiff (tc.getD k ⟨0#16, 0#16, 0#16⟩).center.toNat v

/-- The ascending scan of `count` entries from k on: a strictly closer center replaces the best
(41_tone_curve.md R128). -/
def nearest (tc : List TcEntry) (v : Nat) : Nat → Nat → Nat → Nat
  | 0, _, best => best
  | count + 1, k, best =>
    nearest tc v count (k + 1) (if centerDist tc v k < centerDist tc v best then k else best)

/-- `ReverseLookup(v)` (41_tone_curve.md R128). -/
def reverseLookup (tc : List TcEntry) (v : Nat) : Nat :=
  let r := lowerBound tc v
  let lo := r - 2
  let hi := min 4095 (r + 2)
  nearest tc v (hi - lo) (lo + 1) lo

/-! ### The commands -/

/-- TC.BUILD: on CURVE_CONFIG the table and TC_VALID are unchanged (41_tone_curve.md R130). -/
def execTcBuild (s : State) : Host.Outcome State Fault Refusal :=
  conclude (match buildTable s.breakpoints with
    | .ok table => .ok () { s with tc := table, tcValid := true }
    | .error info => .raise .curveConfig info s)

/-- TC.DITH (41_tone_curve.md R131). -/
def execTcDith (rd rs : Reg) (s : State) : Host.Outcome State Fault Refusal :=
  conclude ((requireTable s).bind fun _ s => (requireBelow 4096 (s.getX rs) s).bind fun _ s =>
    (dither (s.getX rs).toNat s).bind fun p t => .ok () (t.setX rd (p.setWidth 32)))

/-- TC.RLK (41_tone_curve.md R132). -/
def execTcRlk (rd rs : Reg) (s : State) : Host.Outcome State Fault Refusal :=
  conclude ((requireTable s).bind fun _ s => (requireBelow 65536 (s.getX rs) s).bind fun _ s =>
    .ok () (s.setX rd (BitVec.ofNat 32 (reverseLookup s.tc (s.getX rs).toNat))))

/-- TC.CTR (41_tone_curve.md R133). -/
def execTcCtr (rd rs : Reg) (s : State) : Host.Outcome State Fault Refusal :=
  conclude ((requireTable s).bind fun _ s => (requireBelow 4096 (s.getX rs) s).bind fun _ s =>
    .ok () (s.setX rd ((s.tcEntry (s.getX rs).toNat).center.setWidth 32)))

/-- TC.BD: base in bits 15:0, delta in bits 31:16 (41_tone_curve.md R134). -/
def execTcBd (rd rs : Reg) (s : State) : Host.Outcome State Fault Refusal :=
  conclude ((requireTable s).bind fun _ s => (requireBelow 4096 (s.getX rs) s).bind fun _ s =>
    .ok () (s.setX rd ((s.tcEntry (s.getX rs).toNat).base.setWidth 32 |||
      ((s.tcEntry (s.getX rs).toNat).delta.setWidth 32 <<< 16))))

end Sys2Proof.Machine
end

