-- ==== Sys2Proof/Machine/Decoder.lean ====
section
/-!
DEFINITION. The decode side of DC: the residual shift (44_decoder.md R175), the phase and row decoders
(R177 to R180), the geometry checks (R185 to R187) and the commands DC.DPH, DC.DROW, DC.DEC
(R182 to R184).
-/

namespace Sys2Proof.Machine

/-- `Shift(delta) = max(0, bitlength(delta) - 7)`, shared with the encoder (44_decoder.md R175). -/
def residualShift (delta : Nat) : Nat := bitlength delta - 7

/-- The header of a phase: its largest and smallest codes and their indices (30_encoding.md R98). -/
structure PhaseHead where
  mx : Nat
  mn : Nat
  imax : Nat
  imin : Nat
  deriving DecidableEq, Repr

/-- A residual turned back into a code, clamped to 11 bits: `min(0x7FF, (res << shift) + min)`
(44_decoder.md R177). -/
def decodeResidual (h : PhaseHead) (res : Nat) : Nat :=
  min 0x7FF ((res <<< residualShift (h.mx - h.mn)) + h.mn)

/-- The code of element i, reading its residual if it has one; `i == imax` is tested first
(44_decoder.md R177, R179). -/
def elementCode (h : PhaseHead) (i : Nat) (s : State) : Res Nat :=
  if i = h.imax then .ok h.mx s
  else if i = h.imin then .ok h.mn s
  else (getBits 7 s).bind fun res t => .ok (decodeResidual h res.toNat) t

/-- One element: its residual is read, its code dithered and its sample written, in this order
(44_decoder.md R177). -/
def decodeElement (dst : Word) (j : Nat) (h : PhaseHead) (i : Nat) (s : State) : Res Unit :=
  (elementCode h i s).bind fun v t => (dither (v <<< 1) t).bind fun p u =>
    memWrite 2 (sampleAddr dst j i) p.toNat u

/-- The header of a phase, or PHASE_ORDER after the two 11-bit reads (44_decoder.md R177, R178). -/
def readHead (s : State) : Res PhaseHead :=
  (getBits 11 s).bind fun mx s => (getBits 11 s).bind fun mn s =>
    if mx.toNat < mn.toNat then .raise .phaseOrder ((mx <<< 16) ||| mn) s
    else (getBits 4 s).bind fun imax s => (getBits 4 s).bind fun imin s =>
      .ok ⟨mx.toNat, mn.toNat, imax.toNat, imin.toNat⟩ s

/-- `DecodePhase(dst, j)` (44_decoder.md R177). -/
def decodePhase (dst : Word) (j : Nat) (s : State) : Res Unit :=
  (readHead s).bind fun h t => forRange (decodeElement dst j h) 16 0 t

/-- `DecodeRow(dst, src, W)`: a fresh reader over the row's W bytes, the row seed, then the blocks, two
phases each (44_decoder.md R180). -/
def decodeRow (dst src : Word) (w : Nat) (s : State) : Res Unit :=
  (peek 16 (s.openReader src (BitVec.ofNat 32 w))).bind fun seed t =>
    forRange (fun b => forRange (fun j => decodePhase (blockAddr dst b) j) 2 0) (w / 32) 0
      { t with rng := seed }

/-- `CheckWidth()` (44_decoder.md R185). -/
def checkWidth (s : State) : Res Nat :=
  if s.gWidth.toNat = 0 then .raise .invalidGeometry 1#32 s
  else if s.gWidth.toNat % 32 ≠ 0 then .raise .invalidGeometry 2#32 s
  else .ok s.gWidth.toNat s

/-- The decode row stride: G_STRIDE, or W when G_STRIDE = 0 (44_decoder.md R187). -/
def State.rowStride (s : State) : Nat :=
  if s.gStride.toNat ≠ 0 then s.gStride.toNat else s.gWidth.toNat

/-- `CheckDecodeGeometry()`, in exact arithmetic (44_decoder.md R186). -/
def checkDecodeGeometry (s : State) : Res Nat :=
  (checkWidth s).bind fun w s =>
    if s.rowStride < w then .raise .invalidGeometry 3#32 s
    else if 0 < s.gHeight.toNat ∧ s.gSrclen.toNat < (s.gHeight.toNat - 1) * s.rowStride + w then
      .raise .invalidGeometry 4#32 s
    else .ok w s

/-- DC.DPH (44_decoder.md R182). -/
def execDcDph (ra : Reg) (j : Phase) (s : State) : Host.Outcome State Fault Refusal :=
  conclude ((requireTable s).bind fun _ s => decodePhase (s.getX ra) j.val s)

/-- DC.DROW (44_decoder.md R183). -/
def execDcDrow (ra rb : Reg) (s : State) : Host.Outcome State Fault Refusal :=
  conclude ((requireTable s).bind fun _ s => (checkWidth s).bind fun w s =>
    decodeRow (s.getX ra) (s.getX rb) w s)

/-- The row loop of DC.DEC: row r from `src + r*S` into `dst + 2*r*W` (44_decoder.md R184, R187). -/
def decodeImage (dst src : Word) (w stride height : Nat) (s : State) : Res Unit :=
  forRange (fun r => decodeRow (dst + BitVec.ofNat 32 (2 * r * w)) (src + BitVec.ofNat 32 (r * stride)) w)
    height 0 s

/-- DC.DEC (44_decoder.md R184). -/
def execDcDec (ra rb : Reg) (s : State) : Host.Outcome State Fault Refusal :=
  conclude ((requireTable s).bind fun _ s => (checkDecodeGeometry s).bind fun w s =>
    decodeImage (s.getX ra) (s.getX rb) w s.rowStride s.gHeight.toNat s)

end Sys2Proof.Machine
end

