-- ==== Sys2Proof/Machine/Encoder.lean ====
section
/-!
DEFINITION. The encode side of DC: the phase and row encoders (45_encoder.md R196, R197, R200, R201) and
the commands DC.EPH, DC.EROW, DC.ENC (R203 to R205).
-/

namespace Sys2Proof.Machine

/-- The 16 codes of phase j of the block at src, from element i on: each sample is read and looked up
(45_encoder.md R196); all reads come before any push. -/
def readCodes (src : Word) (j : Nat) : Nat → Nat → State → Res (List Nat)
  | 0, _, s => .ok [] s
  | count + 1, i, s =>
    (memRead (sampleAddr src j i) 2 s).bind fun v t =>
      (readCodes src j count (i + 1) t).bind fun codes u => .ok ((reverseLookup u.tc v >>> 1) :: codes) u

/-- One element of the first-occurrence scan: both tests are strict and both are made
(45_encoder.md R196, R200). -/
def scanStep (h : PhaseHead) (i c : Nat) : PhaseHead where
  mx := if h.mx < c then c else h.mx
  imax := if h.mx < c then i else h.imax
  mn := if c < h.mn then c else h.mn
  imin := if c < h.mn then i else h.imin

/-- The scan of the elements from i on (45_encoder.md R200). -/
def scanFrom : PhaseHead → Nat → List Nat → PhaseHead
  | h, _, [] => h
  | h, i, c :: cs => scanFrom (scanStep h i c) (i + 1) cs

/-- The scan of a phase: it starts from element 0 (45_encoder.md R196, R200). -/
def scanCodes (codes : List Nat) : PhaseHead :=
  scanFrom ⟨codes.headD 0, codes.headD 0, 0, 0⟩ 1 codes.tail

/-- The tie-break: both branches, as the source gives them (45_encoder.md R196, R197). -/
def tieBreak (h : PhaseHead) : PhaseHead :=
  if h.imax = h.imin then { h with imin := if h.imax ≠ 0 then h.imin - 1 else h.imin + 1 } else h

/-- The residual of a code: `((c - mn) >> sh) & 0x7F` (45_encoder.md R196). -/
def encodeResidual (h : PhaseHead) (c : Nat) : Nat :=
  ((c - h.mn) >>> residualShift (h.mx - h.mn)) &&& 0x7F

/-- The residual fields (value, width) of the elements from i on, in ascending order, skipping imax and
imin (45_encoder.md R196). -/
def residualFields (h : PhaseHead) : Nat → List Nat → List (Nat × Nat)
  | _, [] => []
  | i, c :: cs =>
    if i = h.imax ∨ i = h.imin then residualFields h (i + 1) cs
    else (encodeResidual h c, 7) :: residualFields h (i + 1) cs

/-- The header a phase of these codes is given (45_encoder.md R196). -/
def headOf (codes : List Nat) : PhaseHead := tieBreak (scanCodes codes)

/-- The fields (value, width) of a phase in stream order (45_encoder.md R196, 30_encoding.md R98). -/
def phaseFields (codes : List Nat) : List (Nat × Nat) :=
  [((headOf codes).mx, 11), ((headOf codes).mn, 11), ((headOf codes).imax, 4), ((headOf codes).imin, 4)]
    ++ residualFields (headOf codes) 0 codes

/-- The pushes of a list of fields, in order. -/
def pushAll : List (Nat × Nat) → State → Res Unit
  | [], s => .ok () s
  | (v, n) :: fs, s => (push v n s).bind fun _ t => pushAll fs t

/-- `EncodePhase(src, j)` (45_encoder.md R196). -/
def encodePhase (src : Word) (j : Nat) (s : State) : Res Unit :=
  (readCodes src j 16 0 s).bind fun codes t => pushAll (phaseFields codes) t

/-- `EncodeRow(dst, src, W)`: a fresh writer over the row's W bytes, the blocks, two phases each, then
Finish (45_encoder.md R201). -/
def encodeRow (dst src : Word) (w : Nat) (s : State) : Res Unit :=
  (forRange (fun b => forRange (fun j => encodePhase (blockAddr src b) j) 2 0) (w / 32) 0
    (s.openWriter dst (BitVec.ofNat 32 w))).bind fun _ t => (finish t).bind fun _ u => .ok () u

/-- DC.EPH (45_encoder.md R203). -/
def execDcEph (ra : Reg) (j : Phase) (s : State) : Host.Outcome State Fault Refusal :=
  conclude ((requireTable s).bind fun _ s => encodePhase (s.getX ra) j.val s)

/-- DC.EROW (45_encoder.md R204). -/
def execDcErow (ra rb : Reg) (s : State) : Host.Outcome State Fault Refusal :=
  conclude ((requireTable s).bind fun _ s => (checkWidth s).bind fun w s =>
    encodeRow (s.getX ra) (s.getX rb) w s)

/-- The row loop of DC.ENC: row r from `src + 2*r*W` into `dst + r*W` (45_encoder.md R202, R205). -/
def encodeImage (dst src : Word) (w height : Nat) (s : State) : Res Unit :=
  forRange (fun r => encodeRow (dst + BitVec.ofNat 32 (r * w)) (src + BitVec.ofNat 32 (2 * r * w)) w)
    height 0 s

/-- DC.ENC (45_encoder.md R205). -/
def execDcEnc (ra rb : Reg) (s : State) : Host.Outcome State Fault Refusal :=
  conclude ((requireTable s).bind fun _ s => (checkWidth s).bind fun w s =>
    encodeImage (s.getX ra) (s.getX rb) w s.gHeight.toNat s)

end Sys2Proof.Machine
end

