-- ==== Sys2Proof/Machine/Dispatch.lean ====
section
/-!
DEFINITION. What each command does: one arm per constructor of Instr, each a call of its meaning.
-/

namespace Sys2Proof.Machine

def exec (i : Instr) (s : State) : Host.Outcome State Fault Refusal :=
  match i with
  | .nop => Sys2Proof.Machine.execNop s
  | .stop => Sys2Proof.Machine.execStop s
  | .li rd imm => Sys2Proof.Machine.execLi rd imm s
  | .lui rd imm => Sys2Proof.Machine.execLui rd imm s
  | .csrr rd csr => Sys2Proof.Machine.execCsrr rd csr s
  | .csrw csr rs => Sys2Proof.Machine.execCsrw csr rs s
  | .brInit ra rl => Sys2Proof.Machine.execBrInit ra rl s
  | .brPeek rd n => Sys2Proof.Machine.execBrPeek rd n s
  | .brGet rd n => Sys2Proof.Machine.execBrGet rd n s
  | .brSkip n => Sys2Proof.Machine.execBrSkip n s
  | .bwInit ra rl => Sys2Proof.Machine.execBwInit ra rl s
  | .bwPut rs n => Sys2Proof.Machine.execBwPut rs n s
  | .bwFin rd => Sys2Proof.Machine.execBwFin rd s
  | .tcBuild => Sys2Proof.Machine.execTcBuild s
  | .tcDith rd rs => Sys2Proof.Machine.execTcDith rd rs s
  | .tcRlk rd rs => Sys2Proof.Machine.execTcRlk rd rs s
  | .tcCtr rd rs => Sys2Proof.Machine.execTcCtr rd rs s
  | .tcBd rd rs => Sys2Proof.Machine.execTcBd rd rs s
  | .dcDph ra j => Sys2Proof.Machine.execDcDph ra j s
  | .dcEph ra j => Sys2Proof.Machine.execDcEph ra j s
  | .dcDrow ra rb => Sys2Proof.Machine.execDcDrow ra rb s
  | .dcErow ra rb => Sys2Proof.Machine.execDcErow ra rb s
  | .dcDec ra rb => Sys2Proof.Machine.execDcDec ra rb s
  | .dcEnc ra rb => Sys2Proof.Machine.execDcEnc ra rb s

end Sys2Proof.Machine
end

