-- ==== Sys2Proof/Machine/Sequencer.lean ====
section
/-!
DEFINITION. The sequencer SEQ: fetch, decode, execute (40_control.md R100), and placing a command where
the next fetch finds it.
-/

namespace Sys2Proof.Machine

/-- `MemRead(CP, 4)`: the command at CP (40_control.md R100). -/
def State.fetch (s : State) : Res Word := (memRead s.cp 4 s).bind fun w t => .ok (BitVec.ofNat 32 w) t

/-- One move of the sequencer (40_control.md R100).  An idle block fetches nothing and changes no state
(60_exceptions.md R220, R235; log entry 13), and neither does a stuck one (20_memory.md R62, log entry 5).  An illegal word raises
ILLEGAL_COMMAND with the whole word (30_encoding.md R90). -/
def seqStep (s : State) : Host.Outcome State Fault Refusal :=
  if !s.busy || s.hung then .next s
  else
    match s.fetch with
    | .stuck t => .next t.hang
    | .raise c info t => .next (t.enterFault c info)
    | .ok w t =>
      match decode w with
      | .error _ => .next (t.enterFault .illegalCommand w)
      | .ok i => exec i t

/-- The memory with the given bytes stored from a up, addresses mod 2^32. -/
def Memory.place (m : Memory) : Word → List Byte → Memory
  | _, [] => m
  | a, b :: bs => Memory.place (m.write a.toNat b) (a + 1) bs

/-- The state with a command word of `nbits` bits at CP, running and with no host event before it, so
that the next step fetches it (log entry 11): memory, BUSY, the stuck condition, the schedule, no host write
racing with the run, and the platform's ranges only where they keep CP's four bytes from being fetched. -/
def State.placeWord (s : State) (nbits w : Nat) : State :=
  { s with
    mem := Memory.place s.mem s.cp (leBytes 4 (w % 2 ^ nbits))
    busy := true
    hung := false
    inputs := []
    past := []
    holes := if (List.range 4).all fun k => s.admits (s.cp + BitVec.ofNat 32 k) then s.holes else [] }

end Sys2Proof.Machine
end

