-- ==== Sys2Proof/Machine/HostPort.lean ====
section
/-!
DEFINITION. The host window and the reset input: host accesses while the block is idle and while it is
busy (10_state.md R46 to R48), host accesses to memory (20_memory.md R73, R75), reset at any time
(70_reset_and_hazards.md R245 to R247).
-/

namespace Sys2Proof.Machine

/-- What a window offset names (10_state.md R46). -/
inductive WindowReg where
  | csr (c : Csr)
  | gpr (r : Reg)
  | reserved
  deriving DecidableEq, Repr

/-- CSR n at offset 4n, Xi at offset 0x100 + 4i, every other offset reserved (10_state.md R46). -/
def windowReg (off : Nat) : WindowReg :=
  if off < 0x100 then
    match csrOfNum (off / 4) with
    | some c => .csr c
    | none => .reserved
  else if h : (off - 0x100) / 4 < 16 then .gpr ⟨(off - 0x100) / 4, h⟩
  else .reserved

/-- The window offset of a host address; `none` outside the 512-byte window (10_state.md R46). -/
def State.windowOffset (s : State) (addr : Nat) : Option Nat :=
  if s.mmioBase ≤ addr ∧ addr < s.mmioBase + 512 then some (addr - s.mmioBase) else none

/-- A host write to a CSR while idle (10_state.md R29 to R40, R47): CTRL takes the enables and starts a
run when GO is written 1 (log entry 12), STATUS is write-1-to-clear, CMD_BASE drops bits 1:0, the CSRs a
command may write take the value as from a command, the read-only ones ignore it. -/
def State.hostWriteCsr (s : State) (c : Csr) (v : Word) : State :=
  match c with
  | .ctrl => if v.getLsbD 0 then (s.writeEnables v).go else s.writeEnables v
  | .status => s.writeStatus v
  | .cmdBase => { s with cmdBase := v &&& 0xFFFFFFFC#32 }
  | c => (s.writeCsr c v).getD s

/-- A host write to a CSR while BUSY = 1: only the enables and STATUS's write-1-to-clear bits are honoured,
a GO is ignored (10_state.md R30, R48). -/
def State.busyWriteCsr (s : State) (c : Csr) (v : Word) : State :=
  match c with
  | .ctrl => s.writeEnables v
  | .status => s.writeStatus v
  | _ => s

/-- A host write to the window (10_state.md R46 to R48). -/
def State.hostWrite (s : State) (off : Nat) (v : Word) : State :=
  match windowReg off with
  | .csr c => if s.busy then s.busyWriteCsr c v else s.hostWriteCsr c v
  | .gpr r => if s.busy then s else s.setX r v
  | .reserved => s

/-- The host has read v. -/
def State.hostGets (s : State) (v : Word) : State := { s with hostData := v }

/-- The host has read a busy register whose value is not promised: any value (10_state.md R48,
log entry 7). -/
def State.hostGetsAny (s : State) : State :=
  { s with hostData := Config.busyRead s.draws, draws := s.draws + 1 }

/-- A host read of a register: its current value while idle; while busy STATUS, CP and CMD_COUNT still
read their current value and every other register reads any value (10_state.md R47, R48). -/
def State.hostRead (s : State) (off : Nat) : State :=
  match windowReg off with
  | .csr c =>
    if s.busy && !(c == .status || c == .cp || c == .cmdCount) then s.hostGetsAny
    else s.hostGets (s.readCsr c)
  | .gpr r => if s.busy then s.hostGetsAny else s.hostGets (s.getX r)
  | .reserved => s.hostGets 0#32

/-- The reset input, with the state it cuts the command in progress off in: every register to its reset value,
memory and the count of draws as `cut` has them, the platform and the agents outside the block untouched
(10_state.md R51 to R53, 70_reset_and_hazards.md R245). -/
def State.resetWith (s cut : State) : State :=
  { State.reset with
    mem := cut.mem, holes := s.holes, mmioBase := s.mmioBase, inputs := s.inputs, hostData := s.hostData,
    draws := cut.draws }

/-- The state a reset cuts the command in progress off in: while idle or stuck, the state as it is; during a run,
the first `kept` byte writes of the command have landed (70_reset_and_hazards.md R247, log entry 10). -/
def State.cutShort (s : State) (kept : Nat) : State :=
  match seqStep { s with writesLeft := some kept } with
  | .next t => t
  | .fault _ => s
  | .refused _ => s

/-- A host register access that reaches the window: only an aligned 32-bit access exists
(10_state.md R46, 93_implementation_defined.md I20); an address outside the window is not this block's
business.  An access that only overlaps the window is none of those. -/
def State.windowAccess (s : State) (addr size : Nat) (act : Nat → State) :
    Host.Outcome State Fault Refusal :=
  match s.windowOffset addr with
  | some off => if size = 4 ∧ off % 4 = 0 then .next (act off) else .refused .hostAccess
  | none => if addr < s.mmioBase ∧ s.mmioBase < addr + size then .refused .hostAccess else .next s

/-- The host writes one byte of memory: its own outside a run; during a run the write is recorded, since a
later read of the byte by the block is a race (20_memory.md R73, R75; log entry 8). -/
def State.hostStore (s : State) (a : Word) (b : Byte) : State :=
  if s.busy then s.storeByte true a b else { s with mem := s.mem.write a.toNat b }

/-- The host reads one byte of memory: its value outside a run, and of a byte the block has not written during
it (70_reset_and_hazards.md R250); else a race, any value the byte has held during the run (20_memory.md R73,
R75, 93_implementation_defined.md I22; log entry 8). -/
def State.hostLoad (s : State) (a : Word) : State :=
  if s.busy && s.blockWrote a then
    s.drawn.hostGets ((s.draw (s.mem.read a.toNat) (s.heldBefore a)).setWidth 32)
  else s.hostGets ((s.mem.read a.toNat).setWidth 32)

/-- A host access to one byte of system memory reaches what the platform backs with plain memory
(20_memory.md R70, log entry 9). -/
def State.memoryAccess (s : State) (a : Word) (t : State) : Host.Outcome State Fault Refusal :=
  if s.admits a then .next t else .refused .hostOutsideMemory

/-- One move of the agent the schedule names; the event is already taken off the schedule. -/
def hostStep (e : HostEvent) (s : State) : Host.Outcome State Fault Refusal :=
  match e with
  | .seq => seqStep s
  | .regWrite addr size v => s.windowAccess addr size fun off => s.hostWrite off v
  | .regRead addr size => s.windowAccess addr size fun off => s.hostRead off
  | .memWrite a b => s.memoryAccess a (s.hostStore a b)
  | .memRead a => s.memoryAccess a (s.hostLoad a)
  | .reset kept => .next (s.resetWith (s.cutShort kept))

/-- One step of the machine: the oldest event of the schedule, or the sequencer where it is empty
(10_state.md R19, log entry 6). -/
def machineStep (s : State) : Host.Outcome State Fault Refusal :=
  match s.inputs with
  | [] => seqStep s
  | e :: rest => hostStep e { s with inputs := rest }

end Sys2Proof.Machine
end

