-- ==== Sys2Proof/Machine/Step.lean ====
section
/-!
DEFINITION. The step function of the machine and the state that runs a given command next.
-/

namespace Sys2Proof.Machine

/-- One step (40_control.md R100; 10_state.md R19). -/
def step (s : State) : Host.Outcome State Fault Refusal := machineStep s

/-- `s` with a command stored where `step` fetches next, and running (log entry 11). -/
def State.withFetchWord (s : State) (nbits w : Nat) : State := s.placeWord nbits w

end Sys2Proof.Machine
end

