-- ==== Sys2Proof/Safety.lean ====
section
/-!
DEFINITION. What the claims about the machine are said in, written from the spec and not from the meanings:
the invariants every step keeps, the frame of a command, the opcode map, the CSRs as numbers, the tone
curve code by code, the reverse lookup, the bit streams, phases, rows and dithered samples.
-/

namespace Sys2Proof.Machine

/-! ### Invariants -/

/-- CP and CMD_BASE are 4-aligned (10_state.md R25, R32); the STATUS bits and the fault registers are ones a
run can leave: DONE, FAULT and a fault code only while idle, DONE and FAULT never both (10_state.md R48,
60_exceptions.md R224, R226; 40_control.md R105), codes 0..11 only (60_exceptions.md R216), a set FAULT
with a nonzero code (70_reset_and_hazards.md R249), and a stuck block is busy (20_memory.md R62). -/
structure ControlInv (s : State) : Prop where
  cpAligned : s.cp.toNat % 4 = 0
  baseAligned : s.cmdBase.toNat % 4 = 0
  busyClear : s.busy = true →
    s.done = false ∧ s.fault = false ∧ s.faultCode = 0#8 ∧ s.faultInfo = 0#32
  notBoth : ¬(s.done = true ∧ s.fault = true)
  codeKnown : s.faultCode.toNat ≤ 11
  faultCoded : s.fault = true → s.faultCode ≠ 0#8
  hungBusy : s.hung = true → s.busy = true

/-- The bits of the reader's buffer and of the writer's accumulator above their counts are zero
(10_state.md R44, R45). -/
structure StreamInv (s : State) : Prop where
  reader : s.br.buf.toNat < 2 ^ s.br.cnt.toNat
  writer : s.bw.acc.toNat < 2 ^ s.bw.cnt.toNat

/-- The TC table has its 4096 entries, and while TC_VALID = 1 it is the table built from the current
TC_BP0..TC_BP3 (10_state.md R31, R41, R42). -/
structure TableInv (s : State) : Prop where
  size : s.tc.length = Config.tcSize
  current : s.tcValid = true → buildTable s.breakpoints = .ok s.tc

/-- Memory is in its canonical form and no reset is half done: the model's own. -/
structure StoreInv (s : State) : Prop where
  canonical : s.mem.wf = true
  settled : s.writesLeft = none

/-! ### Memory ranges -/

/-- The n bytes from `a` up, mod 2^32, hold the address c. -/
def InRange (a : Word) (n : Nat) (c : Word) : Prop := ∃ k, k < n ∧ c = a + BitVec.ofNat 32 k

/-- The n bytes from `a` up and the m bytes from `b` up have no byte in common. -/
def Apart (a : Word) (n : Nat) (b : Word) (m : Nat) : Prop := ∀ c, InRange a n c → ¬InRange b m c

/-- The platform backs the n bytes from `a` up with memory (20_memory.md R62). -/
def Admitted (s : State) (a : Word) (n : Nat) : Prop := ∀ c, InRange a n c → s.admits c = true

/-- The platform backs the n bytes from `a` up with memory and the host has written none of them during the run, so
that no read of them is a race (20_memory.md R62, R73). -/
def Settled (s : State) (a : Word) (n : Nat) : Prop :=
  ∀ c, InRange a n c → s.admits c = true ∧ ∀ w ∈ s.past, w.byHost = true → w.addr ≠ c

/-- The byte of memory at an address. -/
def State.byteAt (s : State) (a : Word) : Byte := s.mem.read a.toNat

/-- The n bytes of memory from a up as one little-endian number (20_memory.md R63). -/
def State.leValue (s : State) : Nat → Word → Nat
  | 0, _ => 0
  | n + 1, a => (s.byteAt a).toNat + 256 * s.leValue n (a + 1)

/-! ### Frames -/

/-- CTRL, CMD_BASE, the STATUS bits but TC_VALID, the fault registers and the stuck condition are
unchanged. -/
structure SameControl (s t : State) : Prop where
  ieDone : t.ieDone = s.ieDone
  ieFault : t.ieFault = s.ieFault
  busy : t.busy = s.busy
  done : t.done = s.done
  fault : t.fault = s.fault
  cmdBase : t.cmdBase = s.cmdBase
  faultCode : t.faultCode = s.faultCode
  faultInfo : t.faultInfo = s.faultInfo
  hung : t.hung = s.hung

/-- TC_BP0..TC_BP3 are unchanged. -/
structure SameConstants (s t : State) : Prop where
  bp0 : t.tcBp0 = s.tcBp0
  bp1 : t.tcBp1 = s.tcBp1
  bp2 : t.tcBp2 = s.tcBp2
  bp3 : t.tcBp3 = s.tcBp3

/-- TC_BP0..TC_BP3, the TC table and TC_VALID are unchanged. -/
structure SameCurve (s t : State) : Prop where
  constants : SameConstants s t
  table : t.tc = s.tc
  valid : t.tcValid = s.tcValid

/-- The geometry registers are unchanged. -/
structure SameGeometry (s t : State) : Prop where
  width : t.gWidth = s.gWidth
  height : t.gHeight = s.gHeight
  stride : t.gStride = s.gStride
  srclen : t.gSrclen = s.gSrclen

/-- The platform, the schedule and what the host has read are unchanged: no command touches them.  (How many
values have been drawn is the model's own count: only a read that races with the host advances it.) -/
structure SameOutside (s t : State) : Prop where
  holes : t.holes = s.holes
  mmioBase : t.mmioBase = s.mmioBase
  writesLeft : t.writesLeft = s.writesLeft
  inputs : t.inputs = s.inputs
  hostData : t.hostData = s.hostData

/-- What a completed command may change besides CP and CMD_COUNT: general registers by number, whole units,
memory as ranges (address, count of bytes). -/
structure MayChange where
  regs : List Reg := []
  rng : Bool := false
  br : Bool := false
  bw : Bool := false
  curve : Bool := false
  geometry : Bool := false
  bytes : List (Word × Nat) := []

/-- A command other than STOP has completed: it is counted and CP advances (40_control.md R100), and nothing
changes but what `c` names; the run's record of writes grows by the block's writes in those ranges. -/
structure Completed (c : MayChange) (s t : State) : Prop where
  cp : t.cp = s.cp + 4
  cmdCount : t.cmdCount = s.cmdCount + 1
  regs : ∀ r, r ∉ c.regs → t.getX r = s.getX r
  rng : c.rng = false → t.rng = s.rng
  br : c.br = false → t.br = s.br
  bw : c.bw = false → t.bw = s.bw
  curve : c.curve = false → SameCurve s t
  geometry : c.geometry = false → SameGeometry s t
  mem : ∀ a, (∀ p ∈ c.bytes, ¬InRange p.1 p.2 a) → t.byteAt a = s.byteAt a
  past : ∃ l, t.past = l ++ s.past ∧ ∀ w ∈ l, w.byHost = false ∧ ∃ p ∈ c.bytes, InRange p.1 p.2 w.addr
  control : SameControl s t
  outside : SameOutside s t

/-- The state after a fault of this code and information word, raised before any effect
(60_exceptions.md R218): the fault registers, FAULT and BUSY, and nothing else. -/
def State.faulted (s : State) (code : Nat) (info : Word) : State :=
  { s with faultCode := BitVec.ofNat 8 code, faultInfo := info, fault := true, busy := false }

/-- The register a command may write (10_state.md R21). -/
def destination : Instr → Option Reg
  | .li rd _ | .lui rd _ | .csrr rd _ | .brPeek rd _ | .brGet rd _ | .bwFin rd
  | .tcDith rd _ | .tcRlk rd _ | .tcCtr rd _ | .tcBd rd _ => some rd
  | .nop | .stop | .csrw _ _ | .brInit _ _ | .brSkip _ | .bwInit _ _ | .bwPut _ _ | .tcBuild
  | .dcDph _ _ | .dcEph _ _ | .dcDrow _ _ | .dcErow _ _ | .dcDec _ _ | .dcEnc _ _ => none

/-- TC_BP0..TC_BP3. -/
def isConstant : Csr → Bool
  | .tcBp0 | .tcBp1 | .tcBp2 | .tcBp3 => true
  | _ => false

/-- The geometry registers. -/
def isGeometry : Csr → Bool
  | .gWidth | .gHeight | .gStride | .gSrclen => true
  | _ => false

/-- The commands that read the TC table (10_state.md R41). -/
def readsTable : Instr → Bool
  | .tcDith _ _ | .tcRlk _ _ | .tcCtr _ _ | .tcBd _ _ | .dcDph _ _ | .dcEph _ _ | .dcDrow _ _
  | .dcErow _ _ | .dcDec _ _ | .dcEnc _ _ => true
  | _ => false

/-! ### Legal words -/

/-- A row of the opcode map: the opcode, whether A and B are used, the kind of IMM (30_encoding.md R89). -/
structure OpRow where
  op : Nat
  usesA : Bool
  usesB : Bool
  kind : ImmKind
  deriving DecidableEq, Repr

/-- The opcode map, row by row (30_encoding.md R89). -/
def opMap : List OpRow :=
  [⟨0x00, false, false, .zero⟩, ⟨0x01, false, false, .zero⟩, ⟨0x02, true, false, .imm16⟩,
   ⟨0x03, true, false, .imm16⟩, ⟨0x04, true, false, .csr⟩, ⟨0x05, false, true, .csr⟩,
   ⟨0x10, true, true, .zero⟩, ⟨0x11, true, false, .n⟩, ⟨0x12, true, false, .n⟩,
   ⟨0x13, false, false, .n⟩, ⟨0x18, true, true, .zero⟩, ⟨0x19, false, true, .n⟩,
   ⟨0x1A, true, false, .zero⟩, ⟨0x20, false, false, .zero⟩, ⟨0x21, true, true, .zero⟩,
   ⟨0x22, true, true, .zero⟩, ⟨0x23, true, true, .zero⟩, ⟨0x24, true, true, .zero⟩,
   ⟨0x30, true, false, .j⟩, ⟨0x31, true, false, .j⟩, ⟨0x32, true, true, .zero⟩,
   ⟨0x33, true, true, .zero⟩, ⟨0x34, true, true, .zero⟩, ⟨0x35, true, true, .zero⟩]

/-- The numbers of the defined CSRs are these ranges (10_state.md R27). -/
def csrDefined (n : Nat) : Bool :=
  n ≤ 0x07 || (0x10 ≤ n && n ≤ 0x15) || (0x18 ≤ n && n ≤ 0x1B) || (0x20 ≤ n && n ≤ 0x23) ||
    (0x28 ≤ n && n ≤ 0x2B)

/-- IMM is in the legal range of its kind (30_encoding.md R87). -/
def immInRange : ImmKind → Nat → Bool
  | .imm16, _ => true
  | .n, v => v ≤ 32
  | .j, v => v ≤ 1
  | .csr, v => csrDefined v
  | .zero, v => v = 0

/-- None of (a), (b), (c) of 30_encoding.md R90 holds of the word. -/
def legalWord (w : Word) : Bool :=
  opMap.any fun row =>
    w.toNat / 2 ^ 24 = row.op && (row.usesA || w.toNat / 2 ^ 20 % 16 = 0) &&
      (row.usesB || w.toNat / 2 ^ 16 % 16 = 0) && immInRange row.kind (w.toNat % 2 ^ 16)

/-! ### The CSRs as numbers -/

/-- The value of a CSR, as its rule in 10_state.md R27 to R40 defines it, reserved bits 0. -/
def csrValue (s : State) : Csr → Nat
  | .id => 0x42534331
  | .ctrl => 2 * s.ieDone.toNat + 4 * s.ieFault.toNat
  | .status => s.busy.toNat + 2 * s.done.toNat + 4 * s.fault.toNat + 8 * s.tcValid.toNat
  | .cmdBase => s.cmdBase.toNat
  | .cp => s.cp.toNat
  | .cmdCount => s.cmdCount.toNat
  | .faultCode => s.faultCode.toNat
  | .faultInfo => s.faultInfo.toNat
  | .rng => s.rng.toNat
  | .brPtr => s.br.ptr.toNat
  | .brRem => s.br.rem.toNat
  | .brBufl => s.br.buf.toNat % 2 ^ 32
  | .brBufh => s.br.buf.toNat / 2 ^ 32
  | .brCnt => s.br.cnt.toNat
  | .bwPtr => s.bw.ptr.toNat
  | .bwRem => s.bw.rem.toNat
  | .bwAcc => s.bw.acc.toNat
  | .bwCnt => s.bw.cnt.toNat
  | .tcBp0 => s.tcBp0.toNat
  | .tcBp1 => s.tcBp1.toNat
  | .tcBp2 => s.tcBp2.toNat
  | .tcBp3 => s.tcBp3.toNat
  | .gWidth => s.gWidth.toNat
  | .gHeight => s.gHeight.toNat
  | .gStride => s.gStride.toNat
  | .gSrclen => s.gSrclen.toNat

/-! ### The tone curve, code by code -/

/-- bp[1..4] from the registers: `(TC_BP >> 2) & 0xFFF` (41_tone_curve.md R121). -/
def curveOf (s : State) : Breakpoints :=
  ⟨s.tcBp0.toNat / 4 % 4096, s.tcBp1.toNat / 4 % 4096, s.tcBp2.toNat / 4 % 4096, s.tcBp3.toNat / 4 % 4096⟩

/-- The breakpoints are 12-bit codes (41_tone_curve.md R121). -/
abbrev CodeRange (b : Breakpoints) : Prop := b.bp1 ≤ 4095 ∧ b.bp2 ≤ 4095 ∧ b.bp3 ≤ 4095 ∧ b.bp4 ≤ 4095

/-- Legality (a): bp[1] ≤ bp[2] ≤ bp[3] ≤ bp[4] (41_tone_curve.md R125). -/
abbrev Ascending (b : Breakpoints) : Prop := b.bp1 ≤ b.bp2 ∧ b.bp2 ≤ b.bp3 ∧ b.bp3 ≤ b.bp4

/-- The segment i that holds code j, bp[i] < j ≤ bp[i+1], of an ascending set: how many of bp[1..4] are
below j (41_tone_curve.md R122). -/
def segmentOf (b : Breakpoints) (j : Nat) : Nat :=
  [b.bp1, b.bp2, b.bp3, b.bp4].countP fun k => decide (k < j)

/-- curve[j]: 0 at code 0, and a step of 1 << i into each code of segment i (41_tone_curve.md R122). -/
def centerOf (b : Breakpoints) : Nat → Nat
  | 0 => 0
  | j + 1 => centerOf b j + 2 ^ segmentOf b (j + 1)

/-- delta = upper - lower, with the ends of 41_tone_curve.md R123. -/
def deltaOf (b : Breakpoints) (i : Nat) : Nat :=
  (if i < 4095 then centerOf b (i + 1) else centerOf b i) -
    (if 0 < i then centerOf b (i - 1) else centerOf b i)

/-- base = 0 where the center is 0, else center - Round4(delta), exact (41_tone_curve.md R123, R124). -/
def baseOf (b : Breakpoints) (i : Nat) : Int :=
  if centerOf b i = 0 then 0 else (centerOf b i : Int) - ((deltaOf b i + 2) / 4 : Nat)

/-- A legal breakpoint set (41_tone_curve.md R125). -/
structure CurveLegal (b : Breakpoints) : Prop where
  ascending : Ascending b
  nonnegative : ∀ i, i < 4096 → 0 ≤ baseOf b i
  nondecreasing : ∀ i, i < 4095 → baseOf b i ≤ baseOf b (i + 1)

/-! ### Dither and reverse lookup -/

/-- The linear congruential step, exact (41_tone_curve.md R126). -/
def rngNext (r : Nat) : Nat := 15700 * (r % 65536) + r / 65536

/-- RNG after k steps. -/
def rngAfter : Nat → Nat → Nat
  | 0, r => r
  | k + 1, r => rngAfter k (rngNext r)

/-- The dithered pixel, exact (41_tone_curve.md R126). -/
def pixelOf (e : TcEntry) (r : Nat) : Nat := e.base.toNat + (e.delta.toNat * (r % 2048) + 1024) / 4096

/-- r is the smallest k in 0..4095 with TC_B[k] ≥ v, or 4096 if there is none (41_tone_curve.md R128). -/
def IsLowerBound (s : State) (v r : Nat) : Prop :=
  r ≤ 4096 ∧ (∀ k, k < r → (s.tcEntry k).base.toNat < v) ∧ (r < 4096 → v ≤ (s.tcEntry r).base.toNat)

/-- |TC_C[k] - v| (41_tone_curve.md R128). -/
def distanceTo (s : State) (v k : Nat) : Nat := ((s.tcEntry k).center.toNat - v : Int).natAbs

/-- k is the first index of the window [r - 2, r + 2], clipped to 0..4095, that is nearest to v
(41_tone_curve.md R128). -/
def NearestInWindow (s : State) (v r k : Nat) : Prop :=
  r - 2 ≤ k ∧ k ≤ min 4095 (r + 2) ∧
    (∀ m, r - 2 ≤ m → m ≤ min 4095 (r + 2) → distanceTo s v k ≤ distanceTo s v m) ∧
    ∀ m, r - 2 ≤ m → m < k → distanceTo s v k < distanceTo s v m

/-! ### Streams -/

/-- The bits the reader can still deliver: the buffered ones and the whole refill words left in the
window (42_bit_reader.md R145, R146). -/
def State.available (s : State) : Nat := s.br.cnt.toNat + 32 * (s.br.rem.toNat / 4)

/-- The stream the reader stands before, as a number whose bit t is stream bit t (20_memory.md R64): the
buffered bits, then the bytes of the refill words left. -/
def State.stream (s : State) : Nat :=
  s.br.buf.toNat + 2 ^ s.br.cnt.toNat * s.leValue (4 * (s.br.rem.toNat / 4)) s.br.ptr

/-- How many bytes the refills read that delivering n bits takes (42_bit_reader.md R147). -/
def State.refillBytes (s : State) (n : Nat) : Nat := 4 * ((n - s.br.cnt.toNat + 31) / 32)

/-- The bits of a list of fields (value, width). -/
def fieldBits : List (Nat × Nat) → Nat
  | [] => 0
  | (_, n) :: fs => n + fieldBits fs

/-- Fields (value, width) laid out one after another, the first lowest, each masked to its width
(20_memory.md R64, 43_bit_writer.md R163). -/
def packFields : List (Nat × Nat) → Nat
  | [] => 0
  | (v, n) :: fs => v % 2 ^ n + 2 ^ n * packFields fs

/-- Gets of a list of widths, in order. -/
def getAll : List Nat → State → Res (List Nat)
  | [], s => .ok [] s
  | n :: ns, s => (getBits n s).bind fun v t => (getAll ns t).bind fun vs u => .ok (v.toNat :: vs) u

/-! ### Phases and rows -/

/-- max: stream bits 0..10 of a phase (30_encoding.md R98). -/
def phaseMax (st : Nat) : Nat := st % 2 ^ 11

/-- min: stream bits 11..21 of a phase (30_encoding.md R98). -/
def phaseMin (st : Nat) : Nat := st / 2 ^ 11 % 2 ^ 11

/-- imax: stream bits 22..25 of a phase (30_encoding.md R98). -/
def phaseImax (st : Nat) : Nat := st / 2 ^ 22 % 2 ^ 4

/-- imin: stream bits 26..29 of a phase (30_encoding.md R98). -/
def phaseImin (st : Nat) : Nat := st / 2 ^ 26 % 2 ^ 4

/-- How many residuals stand before that of element i: the elements below i but imax and imin
(30_encoding.md R98, 44_decoder.md R179). -/
def residualIndex (st i : Nat) : Nat :=
  (List.range i).countP fun k => decide (k ≠ phaseImax st ∧ k ≠ phaseImin st)

/-- The residual of element i: 7 bits (30_encoding.md R98). -/
def phaseResidual (st i : Nat) : Nat := st / 2 ^ (30 + 7 * residualIndex st i) % 2 ^ 7

/-- The code of element i of the phase whose stream is st (44_decoder.md R177). -/
def phaseCode (st i : Nat) : Nat :=
  if i = phaseImax st then phaseMax st
  else if i = phaseImin st then phaseMin st
  else min 0x7FF (phaseResidual st i * 2 ^ residualShift (phaseMax st - phaseMin st) + phaseMin st)

/-- The bits a phase takes: 128, or 135 where imax = imin (30_encoding.md R98, 44_decoder.md R179). -/
def phaseBits (st : Nat) : Nat := 30 + 7 * residualIndex st 16

/-- The phase p of a row, from its stream bit 128p on (30_encoding.md R99). -/
def rowPhase (row p : Nat) : Nat := row / 2 ^ (128 * p)

/-- Every phase of a row of w samples is well-formed: max ≥ min and imax ≠ imin (44_decoder.md R178,
R179). -/
def RowWellFormed (row w : Nat) : Prop :=
  ∀ p, p < w / 16 → phaseMin (rowPhase row p) ≤ phaseMax (rowPhase row p) ∧
    phaseImax (rowPhase row p) ≠ phaseImin (rowPhase row p)

/-- Sample k of a decoded row: element i of phase j of block b, k = 32b + j + 2i, is the row's dither
number 16(2b + j) + i (44_decoder.md R177, R180; 20_memory.md R83). -/
def rowSample (s : State) (row k : Nat) : Nat :=
  let p := 2 * (k / 32) + k % 2
  let i := k % 32 / 2
  pixelOf (s.tcEntry (2 * phaseCode (rowPhase row p) i)) (rngAfter (16 * p + i) (row % 2 ^ 16))

/-- The address of sample k of an array (20_memory.md R83). -/
def sampleAt (base : Word) (k : Nat) : Word := base + BitVec.ofNat 32 (2 * k)

/-- The 16 codes of phase j of the block of samples at src: the reverse lookup of each sample, halved
(45_encoder.md R196). -/
def State.sampleCodes (s : State) (src : Word) (j : Nat) : List Nat :=
  (List.range 16).map fun i => reverseLookup s.tc (s.leValue 2 (sampleAt src (j + 2 * i))) / 2

/-- The 128 bits of the phase that encodes 16 codes (45_encoder.md R196, 30_encoding.md R98). -/
def phaseValue (codes : List Nat) : Nat := packFields (phaseFields codes)

/-! ### Commands in turn -/

/-- What the codec commands change is the same in two states: RNG, the reader, the writer, memory with the
record of its writes, the draws, and how the command ended. -/
structure SameCodec (s t : State) : Prop where
  rng : t.rng = s.rng
  br : t.br = s.br
  bw : t.bw = s.bw
  mem : t.mem = s.mem
  past : t.past = s.past
  draws : t.draws = s.draws
  busy : t.busy = s.busy
  fault : t.fault = s.fault
  faultCode : t.faultCode = s.faultCode
  faultInfo : t.faultInfo = s.faultInfo
  hung : t.hung = s.hung

/-- A command for each element of a list, in turn, up to the first that faults or is stuck. -/
def inTurn {α : Type} (f : α → State → Host.Outcome State Fault Refusal) : List α → State → State
  | [], s => s
  | a :: rest, s =>
    match f a s with
    | .next t => if t.fault || t.hung then t else inTurn f rest t
    | .fault _ => s
    | .refused _ => s

/-- The phases of a row of w samples at `base`, in order: the address of the block and the phase number
(44_decoder.md R180, 45_encoder.md R201). -/
def rowPhases (base : Word) (w : Nat) : List (Word × Phase) :=
  (List.range (w / 32)).flatMap fun b =>
    [(base + BitVec.ofNat 32 (64 * b), 0), (base + BitVec.ofNat 32 (64 * b), 1)]

/-- A row decoded command by command: the window over its w bytes, the seed by BR.PEEK and a write of RNG, then
DC.DPH for each phase (44_decoder.md R180, 70_reset_and_hazards.md R253). -/
def rowDecoded (dst src : Word) (w : Nat) (s : State) : State :=
  match exec (.brPeek 0 16) { s with br := ⟨src, BitVec.ofNat 32 w, 0, 0⟩ } with
  | .next t =>
    if t.fault || t.hung then t
    else inTurn (fun p u => exec (.dcDph 0 p.2) (u.setX 0 p.1)) (rowPhases dst w) { t with rng := t.getX 0 }
  | .fault _ => s
  | .refused _ => s

/-- A row encoded command by command: the window over its w bytes, then DC.EPH for each phase
(45_encoder.md R201). -/
def rowEncoded (dst src : Word) (w : Nat) (s : State) : State :=
  inTurn (fun p u => exec (.dcEph 0 p.2) (u.setX 0 p.1)) (rowPhases src w)
    { s with bw := ⟨dst, BitVec.ofNat 32 w, 0, 0⟩ }

/-- The destination and the source of each of h rows, in order, at these distances from row to row
(44_decoder.md R184, 45_encoder.md R205). -/
def imageRows (dst src : Word) (dstStep srcStep h : Nat) : List (Word × Word) :=
  (List.range h).map fun r => (dst + BitVec.ofNat 32 (r * dstStep), src + BitVec.ofNat 32 (r * srcStep))

/-! ### Undoing writes -/

/-- Memory before the newest n of these writes, newest first: the values they replaced come back
(70_reset_and_hazards.md R247). -/
def undo : Nat → List PastWrite → Memory → Memory
  | n + 1, w :: ws, m => undo n ws (m.write w.addr.toNat w.old)
  | _, _, m => m

end Sys2Proof.Machine
end

