-- ==== Sys2Proof/Certificates/Slice0/Obligations.lean ====
section
/-!
DEFINITION. The statements for the provers, each a proposition about the machine: the encoding, the
sequencer, each command's completion, result and frame, the faults, the invariants of every step, and the
host's side.
-/

open Sys2Proof Sys2Proof.Machine

/-! ### Encoding -/

/-- The words of 30_encoding.md R96 decode to the commands of its table, and its illegal words are
refused for the reasons it gives. -/
def Obligations.SampleWordsDecode : Prop :=
  decode 0x00000000 = .ok .nop ∧ decode 0x01000000 = .ok .stop ∧
  decode 0x02102000 = .ok (.li 1 0x2000) ∧ decode 0x0390FFFF = .ok (.lui 9 0xFFFF) ∧
  decode 0x04900010 = .ok (.csrr 9 .rng) ∧ decode 0x05010020 = .ok (.csrw .tcBp0 1) ∧
  decode 0x10120000 = .ok (.brInit 1 2) ∧ decode 0x12500003 = .ok (.brGet 5 3) ∧
  decode 0x13000020 = .ok (.brSkip 32) ∧ decode 0x1903000C = .ok (.bwPut 3 12) ∧
  decode 0x1A400000 = .ok (.bwFin 4) ∧ decode 0x20000000 = .ok .tcBuild ∧
  decode 0x24830000 = .ok (.tcBd 8 3) ∧ decode 0x30200001 = .ok (.dcDph 2 1) ∧
  decode 0x34230000 = .ok (.dcDec 2 3) ∧
  decode 0xFF000000 = .error .opcode ∧ decode 0x00000001 = .error .imm ∧
  decode 0x11000021 = .error .imm ∧ decode 0x11010000 = .error .fieldB ∧
  decode 0x30000002 = .error .imm ∧ decode 0x04000050 = .error .imm ∧ decode 0x04000110 = .error .imm

/-- Decoding the word, or the four bytes, of a well-formed command gives it back, at every value of every
operand. -/
def Obligations.DecodeOfEncode : Prop :=
  ∀ i : Instr, i.wellFormed = true →
    decode (encode i) = .ok i ∧ decodeBytes (leBytes 4 (encode i).toNat) = .ok (i, [])

/-- A word that decodes is the word of the command it decodes to, and that command is well-formed: no two
words share a meaning and no bit of a legal word is dropped. -/
def Obligations.EncodeOfDecode : Prop :=
  ∀ (w : Word) (i : Instr), decode w = .ok i → i.wellFormed = true ∧ encode i = w

/-- 30_encoding.md R90: the decoder refuses exactly the words of which (a), (b) or (c) holds, and running one
raises ILLEGAL_COMMAND with the whole word before any effect. -/
def Obligations.IllegalWordsFault : Prop :=
  ∀ w : Word,
    ((∃ e, decode w = .error e) ↔ legalWord w = false) ∧
    ∀ s t : State, s.inputs = [] → s.busy = true → s.hung = false → s.fetch = .ok w t → legalWord w = false →
      step s = .next (t.faulted 1 w) ∧ t = { s with draws := t.draws }

/-- The model's own terms with a bit count above 32, which no legal word encodes, raise ILLEGAL_COMMAND with
the word they encode to before any effect (log entry 14). -/
def Obligations.IllFormedTermsFault : Prop :=
  ∀ (i : Instr) (s : State), i.wellFormed = false → exec i s = .next (s.faulted 1 (encode i))

/-! ### The sequencer -/

/-- 40_control.md R100: where the four bytes at CP decode to a command, a step of the sequencer runs it, with
nothing added; the event that lets the sequencer move is taken off the schedule first.  Where the host wrote one
of the bytes during the run, what the fetch got is run. -/
def Obligations.StepRunsDecodedCommand : Prop :=
  (∀ (s : State) (i : Instr), s.busy = true → s.hung = false → Settled s s.cp 4 →
    decodeBytes [s.byteAt s.cp, s.byteAt (s.cp + 1), s.byteAt (s.cp + 2), s.byteAt (s.cp + 3)] = .ok (i, []) →
    (s.inputs = [] → step s = exec i s) ∧
    ∀ rest, s.inputs = .seq :: rest → step s = exec i { s with inputs := rest }) ∧
  ∀ (s t : State) (w : Word) (i : Instr), s.busy = true → s.hung = false → s.inputs = [] →
    s.fetch = .ok w t → decode w = .ok i → step s = exec i t ∧ t = { s with draws := t.draws }

/-- 60_exceptions.md R220, R235: an idle block, in the fault state or not, changes no state by itself.  That this
is a step to the same state is the model's choice (log entry 13). -/
def Obligations.IdleKeepsState : Prop :=
  ∀ s : State, s.inputs = [] → s.busy = false → step s = .next s

/-- 20_memory.md R62: the fetch, a refill, a stream byte, a sample read or a sample write at a byte that is not
admitted leaves the block stuck, and no byte that is not admitted is ever stored; a stuck block has BUSY = 1, no
fault recorded, IRQ, CP and the registers as before, and no event but a reset changes that.  That being stuck is a
next state is the model's choice (log entry 5). -/
def Obligations.StuckBlockStays : Prop :=
  (∀ s : State, s.inputs = [] → s.busy = true → s.hung = false → ¬Admitted s s.cp 4 →
    ∃ d, step s = .next { s with hung := true, draws := d }) ∧
  (∀ (rd : Reg) (n : BitVec 6) (s : State), n.toNat ≤ 32 → s.br.cnt.toNat < n.toNat → 4 ≤ s.br.rem.toNat →
    ¬Admitted s s.br.ptr 4 →
    (∃ d, exec (.brPeek rd n) s = .next { s with hung := true, draws := d }) ∧
    ∃ d, exec (.brGet rd n) s = .next { s with hung := true, draws := d }) ∧
  (∀ (rs : Reg) (n : BitVec 6) (s : State) (m : Nat), n.toNat ≤ 32 → StreamInv s → StoreInv s →
    (s.bw.cnt.toNat + n.toNat) / 8 ≤ s.bw.rem.toNat → m < (s.bw.cnt.toNat + n.toNat) / 8 →
    Admitted s s.bw.ptr m → s.admits (s.bw.ptr + BitVec.ofNat 32 m) = false →
    ∃ t, exec (.bwPut rs n) s = .next t ∧
      t = { s with bw := t.bw, mem := t.mem, past := t.past, hung := true } ∧
      t.leValue m s.bw.ptr =
        (s.bw.acc.toNat + 2 ^ s.bw.cnt.toNat * ((s.getX rs).toNat % 2 ^ n.toNat)) % 256 ^ m ∧
      ∀ a, ¬InRange s.bw.ptr m a → t.byteAt a = s.byteAt a) ∧
  (∀ (ra : Reg) (j : Phase) (s : State), s.tcValid = true →
    (s.br.cnt.toNat < 11 → 4 ≤ s.br.rem.toNat → ¬Admitted s s.br.ptr 4 →
      ∃ d, exec (.dcDph ra j) s = .next { s with hung := true, draws := d }) ∧
    (StreamInv s → StoreInv s → phaseMin s.stream ≤ phaseMax s.stream → phaseBits s.stream ≤ s.available →
      Settled s s.br.ptr (4 * (s.br.rem.toNat / 4)) →
      (∀ i, i < 16 → Apart (sampleAddr (s.getX ra) j.val i) 2 s.br.ptr (4 * (s.br.rem.toNat / 4))) →
      (∃ i, i < 16 ∧ ¬Admitted s (sampleAddr (s.getX ra) j.val i) 2) →
      ∃ t, exec (.dcDph ra j) s = .next t ∧ t.hung = true) ∧
    ((∃ i, i < 16 ∧ ¬Admitted s (sampleAddr (s.getX ra) j.val i) 2) →
      ∃ d, exec (.dcEph ra j) s = .next { s with hung := true, draws := d })) ∧
  (∀ (ra rb : Reg) (s : State), s.tcValid = true → s.gWidth.toNat ≠ 0 → s.gWidth.toNat % 32 = 0 →
    (¬Admitted s (s.getX rb) 4 →
      (∃ t, exec (.dcDrow ra rb) s = .next t ∧ t.hung = true ∧ t.mem = s.mem ∧ t.rng = s.rng) ∧
      (0 < s.gHeight.toNat → (s.gStride.toNat = 0 ∨ s.gWidth.toNat ≤ s.gStride.toNat) →
        (s.gHeight.toNat - 1) * (if s.gStride.toNat = 0 then s.gWidth.toNat else s.gStride.toNat) +
          s.gWidth.toNat ≤ s.gSrclen.toNat →
        ∃ t, exec (.dcDec ra rb) s = .next t ∧ t.hung = true ∧ t.mem = s.mem ∧ t.rng = s.rng)) ∧
    ((∃ i, i < 16 ∧ ¬Admitted s (sampleAddr (s.getX rb) 0 i) 2) →
      (∃ t, exec (.dcErow ra rb) s = .next t ∧ t.hung = true ∧ t.mem = s.mem) ∧
      (0 < s.gHeight.toNat → ∃ t, exec (.dcEnc ra rb) s = .next t ∧ t.hung = true ∧ t.mem = s.mem))) ∧
  (∀ (i : Instr) (s t : State) (l : List PastWrite), exec i s = .next t → t.past = l ++ s.past →
    ∀ w ∈ l, s.admits w.addr = true) ∧
  (∀ (i : Instr) (s t : State), s.busy = true → s.hung = false → exec i s = .next t → t.hung = true →
    t.busy = true ∧ t.fault = s.fault ∧ t.faultCode = s.faultCode ∧ t.faultInfo = s.faultInfo ∧
    t.irq = s.irq ∧ t.cp = s.cp ∧ t.cmdCount = s.cmdCount ∧ ∀ r, t.getX r = s.getX r) ∧
  (∀ s : State, s.hung = true → s.busy = true →
    (s.inputs = [] → step s = .next s) ∧
    (∀ e rest t, s.inputs = e :: rest → (∀ kept, e ≠ .reset kept) → step s = .next t →
      t.hung = true ∧ t.busy = true ∧ t.cp = s.cp ∧ t.cmdCount = s.cmdCount ∧
      (e = .seq → t = { s with inputs := rest })) ∧
    ∀ kept rest, s.inputs = .reset kept :: rest →
      ∃ t, step s = .next t ∧ t.hung = false ∧ t.busy = false)

/-! ### Control commands -/

/-- 40_control.md R101, R102: NOP changes CP and CMD_COUNT only; STOP counts itself, ends the run and keeps
CP, and IRQ is then the level of 60_exceptions.md R224. -/
def Obligations.NopAndStop : Prop :=
  ∀ s : State,
    exec .nop s = .next { s with cp := s.cp + 4, cmdCount := s.cmdCount + 1 } ∧
    exec .stop s = .next { s with cmdCount := s.cmdCount + 1, busy := false, done := true } ∧
    ∀ t, exec .stop s = .next t → t.irq = (s.ieDone || (s.fault && s.ieFault))

/-- 40_control.md R103, R104: LI loads the zero-extended immediate; LUI loads it above the kept low half. -/
def Obligations.LoadImmediates : Prop :=
  ∀ (rd : Reg) (imm : BitVec 16) (s : State),
    (∃ t, exec (.li rd imm) s = .next t ∧ Completed { regs := [rd] } s t ∧
      (t.getX rd).toNat = imm.toNat) ∧
    (∃ t, exec (.lui rd imm) s = .next t ∧ Completed { regs := [rd] } s t ∧
      (t.getX rd).toNat = imm.toNat * 65536 + (s.getX rd).toNat % 65536)

/-- 40_control.md R105: CSRR reads every defined CSR; inside a run STATUS reads BUSY = 1, DONE = 0, FAULT = 0
and the fault registers read 0. -/
def Obligations.CsrrReads : Prop :=
  (∀ (rd : Reg) (c : Csr) (s : State),
    ∃ t, exec (.csrr rd c) s = .next t ∧ Completed { regs := [rd] } s t ∧
      (t.getX rd).toNat = csrValue s c) ∧
  ∀ s : State, ControlInv s → s.busy = true →
    csrValue s .status = 1 + 8 * s.tcValid.toNat ∧ csrValue s .faultCode = 0 ∧
    csrValue s .faultInfo = 0 ∧ csrValue s .ctrl % 2 = 0

/-- 40_control.md R106: CSRW writes RNG, TC_BP0..3 (dropping bits 31:16, clearing TC_VALID, keeping the
table) and the geometry registers; a CSRW to any other CSR raises CSR_ACCESS with its number. -/
def Obligations.CsrwWrites : Prop :=
  ∀ (rs : Reg) (s : State),
    (∃ t, exec (.csrw .rng rs) s = .next t ∧ Completed { rng := true } s t ∧ t.rng = s.getX rs) ∧
    (∃ t, exec (.csrw .tcBp0 rs) s = .next t ∧ Completed { curve := true } s t ∧
      t.tcBp0.toNat = (s.getX rs).toNat % 65536 ∧ t.tcBp1 = s.tcBp1 ∧ t.tcBp2 = s.tcBp2 ∧
      t.tcBp3 = s.tcBp3 ∧ t.tc = s.tc ∧ t.tcValid = false) ∧
    (∃ t, exec (.csrw .tcBp1 rs) s = .next t ∧ Completed { curve := true } s t ∧
      t.tcBp1.toNat = (s.getX rs).toNat % 65536 ∧ t.tcBp0 = s.tcBp0 ∧ t.tcBp2 = s.tcBp2 ∧
      t.tcBp3 = s.tcBp3 ∧ t.tc = s.tc ∧ t.tcValid = false) ∧
    (∃ t, exec (.csrw .tcBp2 rs) s = .next t ∧ Completed { curve := true } s t ∧
      t.tcBp2.toNat = (s.getX rs).toNat % 65536 ∧ t.tcBp0 = s.tcBp0 ∧ t.tcBp1 = s.tcBp1 ∧
      t.tcBp3 = s.tcBp3 ∧ t.tc = s.tc ∧ t.tcValid = false) ∧
    (∃ t, exec (.csrw .tcBp3 rs) s = .next t ∧ Completed { curve := true } s t ∧
      t.tcBp3.toNat = (s.getX rs).toNat % 65536 ∧ t.tcBp0 = s.tcBp0 ∧ t.tcBp1 = s.tcBp1 ∧
      t.tcBp2 = s.tcBp2 ∧ t.tc = s.tc ∧ t.tcValid = false) ∧
    (∃ t, exec (.csrw .gWidth rs) s = .next t ∧ Completed { geometry := true } s t ∧
      t.gWidth = s.getX rs ∧ t.gHeight = s.gHeight ∧ t.gStride = s.gStride ∧ t.gSrclen = s.gSrclen) ∧
    (∃ t, exec (.csrw .gHeight rs) s = .next t ∧ Completed { geometry := true } s t ∧
      t.gHeight = s.getX rs ∧ t.gWidth = s.gWidth ∧ t.gStride = s.gStride ∧ t.gSrclen = s.gSrclen) ∧
    (∃ t, exec (.csrw .gStride rs) s = .next t ∧ Completed { geometry := true } s t ∧
      t.gStride = s.getX rs ∧ t.gWidth = s.gWidth ∧ t.gHeight = s.gHeight ∧ t.gSrclen = s.gSrclen) ∧
    (∃ t, exec (.csrw .gSrclen rs) s = .next t ∧ Completed { geometry := true } s t ∧
      t.gSrclen = s.getX rs ∧ t.gWidth = s.gWidth ∧ t.gHeight = s.gHeight ∧ t.gStride = s.gStride) ∧
    ∀ c : Csr, c ≠ .rng → isConstant c = false → isGeometry c = false →
      exec (.csrw c rs) s = .next (s.faulted 2 ((csrNum c).setWidth 32))

/-! ### Bit reader -/

/-- 42_bit_reader.md R152, 43_bit_writer.md R165: BR.INIT and BW.INIT open a window and drop what was
buffered; no memory is touched. -/
def Obligations.WindowsOpen : Prop :=
  ∀ (ra rl : Reg) (s : State),
    (∃ t, exec (.brInit ra rl) s = .next t ∧ Completed { br := true } s t ∧
      t.br = ⟨s.getX ra, s.getX rl, 0, 0⟩) ∧
    (∃ t, exec (.bwInit ra rl) s = .next t ∧ Completed { bw := true } s t ∧
      t.bw = ⟨s.getX ra, s.getX rl, 0, 0⟩)

/-- 42_bit_reader.md R153 with R146, R147: BR.PEEK returns the next n bits; it refills exactly when fewer are
buffered, one little-endian word above the valid bits; with fewer than 4 bytes left that raises READ_OVERRUN with BR_PTR
and changes nothing else. -/
def Obligations.PeekCompletes : Prop :=
  ∀ (rd : Reg) (n : BitVec 6) (s : State), n.toNat ≤ 32 → StreamInv s →
    (n.toNat ≤ s.br.cnt.toNat →
      ∃ t, exec (.brPeek rd n) s = .next t ∧ Completed { regs := [rd] } s t ∧
        (t.getX rd).toNat = s.br.buf.toNat % 2 ^ n.toNat) ∧
    (s.br.cnt.toNat < n.toNat → 4 ≤ s.br.rem.toNat → Settled s s.br.ptr 4 →
      ∃ t, exec (.brPeek rd n) s = .next t ∧ Completed { regs := [rd], br := true } s t ∧
        t.br.ptr = s.br.ptr + 4 ∧ t.br.rem.toNat = s.br.rem.toNat - 4 ∧
        t.br.cnt.toNat = s.br.cnt.toNat + 32 ∧
        t.br.buf.toNat = s.br.buf.toNat + 2 ^ s.br.cnt.toNat * s.leValue 4 s.br.ptr ∧
        (t.getX rd).toNat = t.br.buf.toNat % 2 ^ n.toNat) ∧
    (s.br.cnt.toNat < n.toNat → s.br.rem.toNat < 4 →
      exec (.brPeek rd n) s = .next (s.faulted 3 s.br.ptr))

/-- 42_bit_reader.md R154 with R149: BR.GET peeks and consumes; a Get of 0 bits writes 0 and touches no
reader state; where a refill is needed and fewer than 4 bytes are left it raises READ_OVERRUN with BR_PTR and
changes nothing else. -/
def Obligations.GetCompletes : Prop :=
  ∀ (rd : Reg) (n : BitVec 6) (s : State), n.toNat ≤ 32 → StreamInv s →
    (n.toNat = 0 → ∃ t, exec (.brGet rd n) s = .next t ∧ Completed { regs := [rd] } s t ∧
      t.getX rd = 0) ∧
    (0 < n.toNat → n.toNat ≤ s.br.cnt.toNat →
      ∃ t, exec (.brGet rd n) s = .next t ∧ Completed { regs := [rd], br := true } s t ∧
        t.br.ptr = s.br.ptr ∧ t.br.rem = s.br.rem ∧ t.br.cnt.toNat = s.br.cnt.toNat - n.toNat ∧
        t.br.buf.toNat = s.br.buf.toNat / 2 ^ n.toNat ∧
        (t.getX rd).toNat = s.br.buf.toNat % 2 ^ n.toNat) ∧
    (s.br.cnt.toNat < n.toNat → 4 ≤ s.br.rem.toNat → Settled s s.br.ptr 4 →
      ∃ t, exec (.brGet rd n) s = .next t ∧ Completed { regs := [rd], br := true } s t ∧
        t.br.ptr = s.br.ptr + 4 ∧ t.br.rem.toNat = s.br.rem.toNat - 4 ∧
        t.br.cnt.toNat = s.br.cnt.toNat + 32 - n.toNat ∧
        t.br.buf.toNat =
          (s.br.buf.toNat + 2 ^ s.br.cnt.toNat * s.leValue 4 s.br.ptr) / 2 ^ n.toNat ∧
        (t.getX rd).toNat =
          (s.br.buf.toNat + 2 ^ s.br.cnt.toNat * s.leValue 4 s.br.ptr) % 2 ^ n.toNat) ∧
    (s.br.cnt.toNat < n.toNat → s.br.rem.toNat < 4 →
      exec (.brGet rd n) s = .next (s.faulted 3 s.br.ptr))

/-- 42_bit_reader.md R155 with R148: BR.SKIP drops n buffered bits and never refills; BIT_UNDERFLOW with info
n, and nothing else changes, where fewer are buffered. -/
def Obligations.SkipDropsBufferedBits : Prop :=
  ∀ (n : BitVec 6) (s : State), n.toNat ≤ 32 →
    (n.toNat ≤ s.br.cnt.toNat →
      ∃ t, exec (.brSkip n) s = .next t ∧ Completed { br := true } s t ∧
        t.br.ptr = s.br.ptr ∧ t.br.rem = s.br.rem ∧ t.br.cnt.toNat = s.br.cnt.toNat - n.toNat ∧
        t.br.buf.toNat = s.br.buf.toNat / 2 ^ n.toNat) ∧
    (s.br.cnt.toNat < n.toNat → exec (.brSkip n) s = .next (s.faulted 11 (n.setWidth 32)))

/-- 42_bit_reader.md R150, R147: seen as a stream of bits, BR.GET takes its first n bits and leaves the rest,
and BR.PEEK takes the same bits and leaves the stream as it is, whatever the refills in between. -/
def Obligations.ReaderRefinesStream : Prop :=
  ∀ (rd : Reg) (n : BitVec 6) (s : State), n.toNat ≤ 32 → StreamInv s → n.toNat ≤ s.available →
    Settled s s.br.ptr (s.refillBytes n.toNat) →
    (∃ t, exec (.brGet rd n) s = .next t ∧ Completed { regs := [rd], br := true } s t ∧
      (t.getX rd).toNat = s.stream % 2 ^ n.toNat ∧ t.stream = s.stream / 2 ^ n.toNat ∧
      t.available = s.available - n.toNat) ∧
    (∃ t, exec (.brPeek rd n) s = .next t ∧ Completed { regs := [rd], br := true } s t ∧
      (t.getX rd).toNat = s.stream % 2 ^ n.toNat ∧ t.stream = s.stream ∧ t.available = s.available)

/-- 20_memory.md R64: after BR.INIT at P, bit t of the stream is bit t mod 8 of the byte at P + t div 8, for
every bit of the window's whole refill words. -/
def Obligations.StreamBitsOfWindow : Prop :=
  ∀ (ra rl : Reg) (s t : State), exec (.brInit ra rl) s = .next t →
    t.available = 32 * ((s.getX rl).toNat / 4) ∧
    ∀ k, k < t.available →
      t.stream.testBit k = (s.byteAt (s.getX ra + BitVec.ofNat 32 (k / 8))).getLsbD (k % 8)

/-! ### Bit writer -/

/-- 43_bit_writer.md R166 with R161: BW.PUT appends the low n bits above the pending ones, writes every whole
byte at BW_PTR in ascending order and keeps the rest pending; memory outside those bytes is unchanged.  A push
that would emit more bytes than BW_REM raises WRITE_OVERRUN with BW_PTR and changes nothing else. -/
def Obligations.PutCompletes : Prop :=
  ∀ (rs : Reg) (n : BitVec 6) (s : State), n.toNat ≤ 32 →
    (StreamInv s → StoreInv s → (s.bw.cnt.toNat + n.toNat) / 8 ≤ s.bw.rem.toNat →
      Admitted s s.bw.ptr ((s.bw.cnt.toNat + n.toNat) / 8) →
      ∃ t, exec (.bwPut rs n) s = .next t ∧
        Completed { bw := true, bytes := [(s.bw.ptr, (s.bw.cnt.toNat + n.toNat) / 8)] } s t ∧
        t.bw.ptr = s.bw.ptr + BitVec.ofNat 32 ((s.bw.cnt.toNat + n.toNat) / 8) ∧
        t.bw.rem.toNat = s.bw.rem.toNat - (s.bw.cnt.toNat + n.toNat) / 8 ∧
        t.bw.cnt.toNat = (s.bw.cnt.toNat + n.toNat) % 8 ∧
        t.leValue ((s.bw.cnt.toNat + n.toNat) / 8) s.bw.ptr +
            2 ^ (8 * ((s.bw.cnt.toNat + n.toNat) / 8)) * t.bw.acc.toNat =
          s.bw.acc.toNat + 2 ^ s.bw.cnt.toNat * ((s.getX rs).toNat % 2 ^ n.toNat)) ∧
    (s.bw.rem.toNat < (s.bw.cnt.toNat + n.toNat) / 8 →
      exec (.bwPut rs n) s = .next (s.faulted 4 s.bw.ptr))

/-- 43_bit_writer.md R162, R167: BW.FIN returns BW_PTR where no bits are pending, and raises RESIDUAL_BITS
with BW_CNT, changing nothing else, where some are. -/
def Obligations.FinReturnsEnd : Prop :=
  ∀ (rd : Reg) (s : State),
    (s.bw.cnt.toNat = 0 →
      ∃ t, exec (.bwFin rd) s = .next t ∧ Completed { regs := [rd] } s t ∧ t.getX rd = s.bw.ptr) ∧
    (s.bw.cnt.toNat ≠ 0 → exec (.bwFin rd) s = .next (s.faulted 5 (s.bw.cnt.setWidth 32)))

/-- 43_bit_writer.md R163: fields pushed from a byte boundary lie in memory least significant bit first, and
reading them back over the same bytes returns each of them masked to its width.  The fields fill whole
refill words, since the reader never reads a part of one (42_bit_reader.md R146). -/
def Obligations.PushThenGetReturnsFields : Prop :=
  ∀ (fs : List (Nat × Nat)) (s : State), StreamInv s → StoreInv s → s.bw.cnt.toNat = 0 →
    (∀ f ∈ fs, f.2 ≤ 32) → fieldBits fs % 32 = 0 → fieldBits fs / 8 ≤ s.bw.rem.toNat →
    Settled s s.bw.ptr (fieldBits fs / 8) →
    ∃ t, pushAll fs s = .ok () t ∧ t.leValue (fieldBits fs / 8) s.bw.ptr = packFields fs ∧
      ∃ u, getAll (fs.map (·.2)) (t.openReader s.bw.ptr (BitVec.ofNat 32 (fieldBits fs / 8))) =
        .ok (fs.map fun f => f.1 % 2 ^ f.2) u

/-! ### Tone curve -/

/-- 41_tone_curve.md R122, R123, R124: on ascending breakpoints the curve the model builds has 4096 codes,
code j stands one step 1 << i above code j - 1 in segment i, and its triples are those of R123. -/
def Obligations.CurveTriples : Prop :=
  ∀ b : Breakpoints, CodeRange b → Ascending b →
    (curve b).length = 4096 ∧ (triples (curve b)).length = 4096 ∧
    ∀ i, i < 4096 →
      (curve b)[i]? = some (centerOf b i) ∧
      (triples (curve b))[i]? = some ⟨centerOf b i, baseOf b i, deltaOf b i⟩

/-- 41_tone_curve.md R130 with R121 to R124: on a legal breakpoint set TC.BUILD writes all 4096 entries and sets
TC_VALID; nothing else changes. -/
def Obligations.BuildCompletes : Prop :=
  ∀ s : State, CurveLegal (curveOf s) →
    ∃ t, exec .tcBuild s = .next t ∧ Completed { curve := true } s t ∧ SameConstants s t ∧
      t.tcValid = true ∧ t.tc.length = 4096 ∧
      ∀ i, i < 4096 →
        (t.tcEntry i).center.toNat = centerOf (curveOf s) i ∧
        ((t.tcEntry i).base.toNat : Int) = baseOf (curveOf s) i ∧
        (t.tcEntry i).delta.toNat = deltaOf (curveOf s) i

/-- 41_tone_curve.md R125, R130: a set that is not legal raises CURVE_CONFIG with the first failing check's
information word, the smallest index of it, and the table and TC_VALID stay. -/
def Obligations.BuildRefusesIllegalCurve : Prop :=
  ∀ s : State,
    (¬Ascending (curveOf s) →
      ∃ k, 1 ≤ k ∧ k ≤ 3 ∧
        (breakpointList (curveOf s)).getD (k + 1) 0 < (breakpointList (curveOf s)).getD k 0 ∧
        (∀ m, 1 ≤ m → m < k →
          (breakpointList (curveOf s)).getD m 0 ≤ (breakpointList (curveOf s)).getD (m + 1) 0) ∧
        exec .tcBuild s = .next (s.faulted 7 (BitVec.ofNat 32 k))) ∧
    (Ascending (curveOf s) → ∀ i, i < 4096 → baseOf (curveOf s) i < 0 →
      (∀ m, m < i → 0 ≤ baseOf (curveOf s) m) →
      exec .tcBuild s = .next (s.faulted 7 (BitVec.ofNat 32 (0x10000 + i)))) ∧
    (Ascending (curveOf s) → (∀ i, i < 4096 → 0 ≤ baseOf (curveOf s) i) →
      ∀ i, i < 4095 → baseOf (curveOf s) (i + 1) < baseOf (curveOf s) i →
      (∀ m, m < i → baseOf (curveOf s) m ≤ baseOf (curveOf s) (m + 1)) →
      exec .tcBuild s = .next (s.faulted 7 (BitVec.ofNat 32 (0x20000 + i))))

/-- 41_tone_curve.md R127: on a built table no column, no dithered pixel and no state of the generator ever
exceeds the width it is stored in. -/
def Obligations.TableBounds : Prop :=
  ∀ s : State, TableInv s → s.tcValid = true →
    (∀ i, i < 4096 → (s.tcEntry i).center.toNat ≤ 16 * i ∧ (s.tcEntry i).center.toNat ≤ 65520 ∧
      (s.tcEntry i).delta.toNat ≤ 32 ∧ (s.tcEntry i).base.toNat ≤ (s.tcEntry i).center.toNat) ∧
    (∀ i, i < 4095 → (s.tcEntry (i + 1)).center.toNat ≤ (s.tcEntry i).center.toNat + 16) ∧
    (s.tcEntry 4094).center.toNat ≤ 65504 ∧ (s.tcEntry 0).delta.toNat ≤ 16 ∧
    (s.tcEntry 4095).delta.toNat ≤ 16 ∧
    ∀ r : Word,
      (lcg r).toNat = rngNext r.toNat ∧ rngNext r.toNat ≤ 1028965035 ∧
      ∀ i, i < 4096 →
        ((s.tcEntry i).delta.toNat * (r.toNat % 2048) + 1024) / 4096 ≤
          ((s.tcEntry i).delta.toNat + 2) / 4 + 8 ∧
        (ditherPixel (s.tcEntry i) r).toNat = pixelOf (s.tcEntry i) r.toNat ∧
        pixelOf (s.tcEntry i) r.toNat ≤ (s.tcEntry i).center.toNat + 8 ∧
        (i < 4095 → pixelOf (s.tcEntry i) r.toNat ≤ 65512) ∧
        pixelOf (s.tcEntry i) r.toNat ≤ 65524

/-- 41_tone_curve.md R129: on a built table the centers strictly increase; the search for a center TC_C[i] ends at
or above i, the reverse lookup gives the nearest index of the window around it, and where the search ends within
i + 2 that is i itself. -/
def Obligations.CentersIncreaseAndLookUp : Prop :=
  ∀ s : State, TableInv s → s.tcValid = true →
    (∀ i, i < 4095 → (s.tcEntry i).center.toNat < (s.tcEntry (i + 1)).center.toNat) ∧
    ∀ i r, i < 4096 → IsLowerBound s (s.tcEntry i).center.toNat r →
      i ≤ r ∧
      NearestInWindow s (s.tcEntry i).center.toNat r (reverseLookup s.tc (s.tcEntry i).center.toNat) ∧
      (r ≤ i + 2 → reverseLookup s.tc (s.tcEntry i).center.toNat = i)

/-- 41_tone_curve.md R131 with R126: TC.DITH refuses an unbuilt table, then an index above 4095, and otherwise
returns the pixel under the old RNG and advances RNG once. -/
def Obligations.DithCommand : Prop :=
  ∀ (rd rs : Reg) (s : State),
    (s.tcValid = false → exec (.tcDith rd rs) s = .next (s.faulted 6 0)) ∧
    (s.tcValid = true → 4096 ≤ (s.getX rs).toNat →
      exec (.tcDith rd rs) s = .next (s.faulted 8 (s.getX rs))) ∧
    (s.tcValid = true → (s.getX rs).toNat < 4096 → TableInv s →
      ∃ t, exec (.tcDith rd rs) s = .next t ∧ Completed { regs := [rd], rng := true } s t ∧
        (t.getX rd).toNat = pixelOf (s.tcEntry (s.getX rs).toNat) s.rng.toNat ∧
        t.rng.toNat = rngNext s.rng.toNat)

/-- 41_tone_curve.md R132 with R128: TC.RLK refuses an unbuilt table, then a value above 65535, and otherwise
returns the first nearest index of the window around the lower bound of its search. -/
def Obligations.RlkCommand : Prop :=
  ∀ (rd rs : Reg) (s : State),
    (s.tcValid = false → exec (.tcRlk rd rs) s = .next (s.faulted 6 0)) ∧
    (s.tcValid = true → 65536 ≤ (s.getX rs).toNat →
      exec (.tcRlk rd rs) s = .next (s.faulted 8 (s.getX rs))) ∧
    (s.tcValid = true → (s.getX rs).toNat < 65536 → TableInv s →
      ∃ t, exec (.tcRlk rd rs) s = .next t ∧ Completed { regs := [rd] } s t ∧
        ∃ r, IsLowerBound s (s.getX rs).toNat r ∧
          NearestInWindow s (s.getX rs).toNat r (t.getX rd).toNat)

/-- 41_tone_curve.md R133, R134: TC.CTR and TC.BD refuse an unbuilt table, then an index above 4095, and
otherwise return the center, or the base with the delta above it. -/
def Obligations.CtrAndBdCommands : Prop :=
  ∀ (rd rs : Reg) (s : State),
    (s.tcValid = false → exec (.tcCtr rd rs) s = .next (s.faulted 6 0) ∧
      exec (.tcBd rd rs) s = .next (s.faulted 6 0)) ∧
    (s.tcValid = true → 4096 ≤ (s.getX rs).toNat →
      exec (.tcCtr rd rs) s = .next (s.faulted 8 (s.getX rs)) ∧
      exec (.tcBd rd rs) s = .next (s.faulted 8 (s.getX rs))) ∧
    (s.tcValid = true → (s.getX rs).toNat < 4096 →
      (∃ t, exec (.tcCtr rd rs) s = .next t ∧ Completed { regs := [rd] } s t ∧
        (t.getX rd).toNat = (s.tcEntry (s.getX rs).toNat).center.toNat) ∧
      (∃ t, exec (.tcBd rd rs) s = .next t ∧ Completed { regs := [rd] } s t ∧
        (t.getX rd).toNat = (s.tcEntry (s.getX rs).toNat).base.toNat +
          65536 * (s.tcEntry (s.getX rs).toNat).delta.toNat))

/-! ### Decoder -/

/-- 44_decoder.md R175: the table of the residual shift. -/
def Obligations.ShiftTable : Prop :=
  ∀ delta, delta ≤ 2047 →
    residualShift delta =
      if delta ≤ 127 then 0 else if delta ≤ 255 then 1 else if delta ≤ 511 then 2
      else if delta ≤ 1023 then 3 else 4

/-- 44_decoder.md R182, R177, R179: DC.DPH completes wherever the header has max ≥ min and the window holds the
phase, overlapping or not; it consumes the phase's bits, steps RNG 16 times and writes the 16 slots only. -/
def Obligations.DphCompletes : Prop :=
  ∀ (ra : Reg) (j : Phase) (s : State), s.tcValid = true → StreamInv s → StoreInv s →
    phaseMin s.stream ≤ phaseMax s.stream → phaseBits s.stream ≤ s.available →
    Settled s s.br.ptr (s.refillBytes (phaseBits s.stream)) →
    (∀ i, i < 16 → Admitted s (sampleAddr (s.getX ra) j.val i) 2) →
    ∃ t, exec (.dcDph ra j) s = .next t ∧
      Completed { rng := true, br := true,
                  bytes := (List.range 16).map fun i => (sampleAddr (s.getX ra) j.val i, 2) } s t ∧
      t.rng.toNat = rngAfter 16 s.rng.toNat ∧ t.available = s.available - phaseBits s.stream

/-- 44_decoder.md R182, R177: where the slots lie apart from the bytes still to be read, element i of the phase is
the dithered code of its field in the stream, and the stream goes on after the phase. -/
def Obligations.DphDecodesPhase : Prop :=
  ∀ (ra : Reg) (j : Phase) (s : State), s.tcValid = true → TableInv s → StreamInv s → StoreInv s →
    phaseMin s.stream ≤ phaseMax s.stream → phaseBits s.stream ≤ s.available →
    Settled s s.br.ptr (s.refillBytes (phaseBits s.stream)) →
    (∀ i, i < 16 → Admitted s (sampleAddr (s.getX ra) j.val i) 2) →
    (∀ i, i < 16 → Apart (sampleAddr (s.getX ra) j.val i) 2 s.br.ptr (4 * (s.br.rem.toNat / 4))) →
    ∃ t, exec (.dcDph ra j) s = .next t ∧ t.stream = s.stream / 2 ^ phaseBits s.stream ∧
      ∀ i, i < 16 → t.leValue 2 (sampleAddr (s.getX ra) j.val i) =
        pixelOf (s.tcEntry (2 * phaseCode s.stream i)) (rngAfter i s.rng.toNat)

/-- 44_decoder.md R182, R188, 60_exceptions.md R219: where the window ends inside the phase DC.DPH raises
READ_OVERRUN at BR_PTR; the fields before the one that does not fit stay consumed, the elements finished before it
keep their samples and their RNG steps, and nothing else is written. -/
def Obligations.DphOverrunKeepsElements : Prop :=
  ∀ (ra : Reg) (j : Phase) (s : State) (count bits : Nat), s.tcValid = true → TableInv s → StreamInv s →
    StoreInv s → s.available < phaseBits s.stream →
    (22 ≤ s.available → phaseMin s.stream ≤ phaseMax s.stream) →
    Settled s s.br.ptr (4 * (s.br.rem.toNat / 4)) →
    (∀ i, i < 16 → Admitted s (sampleAddr (s.getX ra) j.val i) 2) →
    (∀ i, i < 16 → Apart (sampleAddr (s.getX ra) j.val i) 2 s.br.ptr (4 * (s.br.rem.toNat / 4))) →
    count = (List.range 16).countP (fun i => decide (30 + 7 * residualIndex s.stream (i + 1) ≤ s.available)) →
    bits = (if s.available < 11 then 0 else if s.available < 22 then 11 else if s.available < 26 then 22
      else if s.available < 30 then 26 else 30 + 7 * residualIndex s.stream count) →
    ∃ t, exec (.dcDph ra j) s = .next t ∧
      t = { s with br := t.br, rng := t.rng, mem := t.mem, past := t.past, faultCode := 3,
                   faultInfo := t.br.ptr, fault := true, busy := false } ∧
      t.br.ptr = s.br.ptr + BitVec.ofNat 32 (4 * (s.br.rem.toNat / 4)) ∧
      t.br.rem.toNat = s.br.rem.toNat % 4 ∧ t.available = s.available - bits ∧
      t.stream = s.stream / 2 ^ bits ∧ t.rng.toNat = rngAfter count s.rng.toNat ∧
      (∀ i, i < count → t.leValue 2 (sampleAddr (s.getX ra) j.val i) =
        pixelOf (s.tcEntry (2 * phaseCode s.stream i)) (rngAfter i s.rng.toNat)) ∧
      ∀ a, (∀ i, i < count → ¬InRange (sampleAddr (s.getX ra) j.val i) 2 a) → t.byteAt a = s.byteAt a

/-- 44_decoder.md R178: a phase with max < min raises PHASE_ORDER with both fields, the 22 bits stay consumed,
and no sample or RNG step happens. -/
def Obligations.PhaseOrderFault : Prop :=
  ∀ (ra : Reg) (j : Phase) (s : State), s.tcValid = true → StreamInv s →
    phaseMax s.stream < phaseMin s.stream → 22 ≤ s.available →
    Settled s s.br.ptr (s.refillBytes 22) →
    ∃ t, exec (.dcDph ra j) s = .next t ∧
      t = { s with br := t.br, faultCode := 9,
                   faultInfo := BitVec.ofNat 32 (65536 * phaseMax s.stream + phaseMin s.stream),
                   fault := true, busy := false } ∧
      t.stream = s.stream / 2 ^ 22 ∧ t.available = s.available - 22

/-- 44_decoder.md R183 with R180, R181: DC.DROW decodes a well-formed row apart from its output: the seed is the
row's first 16 bits, sample k is its dithered code, and the reader ends empty at the row's end.
On every row, malformed ones (R178, R179), rows that run out of bytes (R182, R183) and overlapping ranges
(20_memory.md R80) among them, it leaves what the window, the seed and DC.DPH for each phase in turn leave, up to
the first that faults or is stuck (R188). -/
def Obligations.DrowDecodesRow : Prop :=
  (∀ (ra rb : Reg) (s : State), s.tcValid = true → TableInv s → StoreInv s →
    s.gWidth.toNat ≠ 0 → s.gWidth.toNat % 32 = 0 →
    Settled s (s.getX rb) s.gWidth.toNat → Admitted s (s.getX ra) (2 * s.gWidth.toNat) →
    Apart (s.getX ra) (2 * s.gWidth.toNat) (s.getX rb) s.gWidth.toNat →
    RowWellFormed (s.leValue s.gWidth.toNat (s.getX rb)) s.gWidth.toNat →
    ∃ t, exec (.dcDrow ra rb) s = .next t ∧
      Completed { rng := true, br := true, bytes := [(s.getX ra, 2 * s.gWidth.toNat)] } s t ∧
      t.br = ⟨s.getX rb + s.gWidth, 0, 0, 0⟩ ∧
      t.rng.toNat =
        rngAfter s.gWidth.toNat (s.leValue s.gWidth.toNat (s.getX rb) % 2 ^ 16) ∧
      ∀ k, k < s.gWidth.toNat → t.leValue 2 (sampleAt (s.getX ra) k) =
        rowSample s (s.leValue s.gWidth.toNat (s.getX rb)) k) ∧
  ∀ (ra rb : Reg) (s : State), s.busy = true → s.fault = false → s.hung = false → s.tcValid = true →
    s.gWidth.toNat ≠ 0 → s.gWidth.toNat % 32 = 0 →
    ∃ t, exec (.dcDrow ra rb) s = .next t ∧
      SameCodec (rowDecoded (s.getX ra) (s.getX rb) s.gWidth.toNat s) t

/-- 44_decoder.md R184 with R186, R187: DC.DEC decodes G_HEIGHT well-formed rows apart from the output, row r
read from src + r·S and written at dst + 2·r·W; no rows, no effect.  On every image it leaves what DC.DROW for each
row in turn leaves, up to the first that faults or is stuck (R188). -/
def Obligations.DecDecodesImage : Prop :=
  (∀ (ra rb : Reg) (s : State) (w h stride : Nat), s.tcValid = true → TableInv s → StoreInv s →
    w = s.gWidth.toNat → h = s.gHeight.toNat →
    stride = (if s.gStride.toNat = 0 then w else s.gStride.toNat) →
    w ≠ 0 → w % 32 = 0 → w ≤ stride → (0 < h → (h - 1) * stride + w ≤ s.gSrclen.toNat) →
    Admitted s (s.getX ra) (2 * w * h) →
    (∀ r, r < h → Settled s (s.getX rb + BitVec.ofNat 32 (r * stride)) w ∧
      Apart (s.getX ra) (2 * w * h) (s.getX rb + BitVec.ofNat 32 (r * stride)) w ∧
      RowWellFormed (s.leValue w (s.getX rb + BitVec.ofNat 32 (r * stride))) w) →
    ∃ t, exec (.dcDec ra rb) s = .next t ∧
      Completed { rng := true, br := true, bytes := [(s.getX ra, 2 * w * h)] } s t ∧
      (h = 0 → t.rng = s.rng ∧ t.br = s.br) ∧
      (0 < h → t.br = ⟨s.getX rb + BitVec.ofNat 32 ((h - 1) * stride + w), 0, 0, 0⟩ ∧
        t.rng.toNat = rngAfter w
          (s.leValue w (s.getX rb + BitVec.ofNat 32 ((h - 1) * stride)) % 2 ^ 16)) ∧
      ∀ r k, r < h → k < w → t.leValue 2 (sampleAt (s.getX ra) (r * w + k)) =
        rowSample s (s.leValue w (s.getX rb + BitVec.ofNat 32 (r * stride))) k) ∧
  ∀ (ra rb : Reg) (s : State) (w stride : Nat), s.busy = true → s.fault = false → s.hung = false →
    s.tcValid = true → w = s.gWidth.toNat → stride = (if s.gStride.toNat = 0 then w else s.gStride.toNat) →
    w ≠ 0 → w % 32 = 0 → w ≤ stride →
    (0 < s.gHeight.toNat → (s.gHeight.toNat - 1) * stride + w ≤ s.gSrclen.toNat) →
    ∃ t, exec (.dcDec ra rb) s = .next t ∧
      SameCodec (inTurn (fun p u => exec (.dcDrow 0 1) ((u.setX 0 p.1).setX 1 p.2))
        (imageRows (s.getX ra) (s.getX rb) (2 * w) stride s.gHeight.toNat) s) t

/-- 44_decoder.md R185, R186: the row and image commands refuse a width of 0, then one that is no multiple of 32;
DC.DEC then a stride below the width, then a buffer too short in exact arithmetic; each before any effect. -/
def Obligations.GeometryRefused : Prop :=
  ∀ (ra rb : Reg) (s : State) (stride : Nat), s.tcValid = true →
    stride = (if s.gStride.toNat = 0 then s.gWidth.toNat else s.gStride.toNat) →
    (s.gWidth.toNat = 0 → ∀ i ∈ [Instr.dcDrow ra rb, .dcErow ra rb, .dcDec ra rb, .dcEnc ra rb],
      exec i s = .next (s.faulted 10 1)) ∧
    (s.gWidth.toNat % 32 ≠ 0 →
      ∀ i ∈ [Instr.dcDrow ra rb, .dcErow ra rb, .dcDec ra rb, .dcEnc ra rb],
      exec i s = .next (s.faulted 10 2)) ∧
    (s.gWidth.toNat ≠ 0 → s.gWidth.toNat % 32 = 0 →
      (stride < s.gWidth.toNat → exec (.dcDec ra rb) s = .next (s.faulted 10 3)) ∧
      (s.gWidth.toNat ≤ stride → 0 < s.gHeight.toNat →
        s.gSrclen.toNat < (s.gHeight.toNat - 1) * stride + s.gWidth.toNat →
        exec (.dcDec ra rb) s = .next (s.faulted 10 4)))

/-! ### Encoder -/

/-- 45_encoder.md R200, R197: the header of 16 codes names the first largest and the first smallest of them, and
never the same element: where all are equal, elements 0 and 1. -/
def Obligations.ScanFindsFirstExtremes : Prop :=
  ∀ codes : List Nat, codes.length = 16 →
    (headOf codes).imax < 16 ∧ (headOf codes).imin < 16 ∧ (headOf codes).imax ≠ (headOf codes).imin ∧
    (∀ c ∈ codes, (headOf codes).mn ≤ c ∧ c ≤ (headOf codes).mx) ∧
    codes[(headOf codes).imax]? = some (headOf codes).mx ∧
    codes[(headOf codes).imin]? = some (headOf codes).mn ∧
    (∀ k c, k < (headOf codes).imax → codes[k]? = some c → c < (headOf codes).mx) ∧
    ((headOf codes).mn < (headOf codes).mx →
      ∀ k c, k < (headOf codes).imin → codes[k]? = some c → (headOf codes).mn < c) ∧
    ((headOf codes).mn = (headOf codes).mx → (headOf codes).imax = 0 ∧ (headOf codes).imin = 1)

/-- 45_encoder.md R199, R198: the phase of 16 codes is 128 bits, no field drops a bit, and decoding it gives max
at imax, min at imin, and every other code rounded down to a multiple of the shift above min. -/
def Obligations.PhaseRoundTripOfCodes : Prop :=
  ∀ codes : List Nat, codes.length = 16 → (∀ c ∈ codes, c ≤ 2047) →
    fieldBits (phaseFields codes) = 128 ∧ (∀ f ∈ phaseFields codes, f.1 < 2 ^ f.2) ∧
    phaseBits (phaseValue codes) = 128 ∧
    phaseMax (phaseValue codes) = (headOf codes).mx ∧ phaseMin (phaseValue codes) = (headOf codes).mn ∧
    phaseImax (phaseValue codes) = (headOf codes).imax ∧
    phaseImin (phaseValue codes) = (headOf codes).imin ∧
    ∀ i c, codes[i]? = some c →
      phaseCode (phaseValue codes) i =
        if i = (headOf codes).imax then (headOf codes).mx
        else if i = (headOf codes).imin then (headOf codes).mn
        else (headOf codes).mn +
          (c - (headOf codes).mn) / 2 ^ residualShift ((headOf codes).mx - (headOf codes).mn) *
            2 ^ residualShift ((headOf codes).mx - (headOf codes).mn)

/-- 45_encoder.md R203 with R196: DC.EPH appends the 128 bits of its 16 samples' phase to the open stream, 16
bytes at BW_PTR whatever is pending; every sample is read before any byte is written, so overlap is allowed. -/
def Obligations.EphEncodesPhase : Prop :=
  ∀ (ra : Reg) (j : Phase) (s : State), s.tcValid = true → StreamInv s → StoreInv s →
    16 ≤ s.bw.rem.toNat → Admitted s s.bw.ptr 16 →
    (∀ i, i < 16 → Settled s (sampleAddr (s.getX ra) j.val i) 2) →
    ∃ t, exec (.dcEph ra j) s = .next t ∧
      Completed { bw := true, bytes := [(s.bw.ptr, 16)] } s t ∧
      t.bw.ptr = s.bw.ptr + 16 ∧ t.bw.rem.toNat = s.bw.rem.toNat - 16 ∧ t.bw.cnt = s.bw.cnt ∧
      t.leValue 16 s.bw.ptr + 2 ^ 128 * t.bw.acc.toNat =
        s.bw.acc.toNat + 2 ^ s.bw.cnt.toNat * phaseValue (s.sampleCodes (s.getX ra) j.val)

/-- 45_encoder.md R203, 60_exceptions.md R219: in a window of fewer than 16 bytes DC.EPH raises WRITE_OVERRUN at
BW_PTR in the first push m whose bytes do not fit; the m pushes before it stay: their whole bytes are written, the
rest is pending, and the writer stands behind them. -/
def Obligations.EphOverrunKeepsPushes : Prop :=
  ∀ (ra : Reg) (j : Phase) (s : State) (fields : List (Nat × Nat)), s.tcValid = true → StreamInv s →
    StoreInv s → s.bw.rem.toNat < 16 → Admitted s s.bw.ptr s.bw.rem.toNat →
    (∀ i, i < 16 → Settled s (sampleAddr (s.getX ra) j.val i) 2) →
    fields = phaseFields (s.sampleCodes (s.getX ra) j.val) →
    ∃ t m bits f, fields[m]? = some f ∧ bits = s.bw.cnt.toNat + fieldBits (fields.take m) ∧
      bits / 8 ≤ s.bw.rem.toNat ∧ s.bw.rem.toNat < (bits + f.2) / 8 ∧
      exec (.dcEph ra j) s = .next t ∧
      t = { s with bw := t.bw, mem := t.mem, past := t.past, faultCode := 4, faultInfo := t.bw.ptr,
                   fault := true, busy := false } ∧
      t.bw.ptr = s.bw.ptr + BitVec.ofNat 32 (bits / 8) ∧
      t.bw.rem.toNat = s.bw.rem.toNat - bits / 8 ∧ t.bw.cnt.toNat = bits % 8 ∧
      t.leValue (bits / 8) s.bw.ptr + 2 ^ (8 * (bits / 8)) * t.bw.acc.toNat =
        s.bw.acc.toNat + 2 ^ s.bw.cnt.toNat * packFields (fields.take m) ∧
      ∀ a, ¬InRange s.bw.ptr (bits / 8) a → t.byteAt a = s.byteAt a

/-- 45_encoder.md R204, R206, R201: with a legal width DC.EROW always completes and leaves the writer empty at
the row's end; apart from its samples the row is the phases of its blocks in order.
On every row, overlapping ones (20_memory.md R80) among them, it leaves what the window and DC.EPH for each phase in
turn leave, up to the first that is stuck. -/
def Obligations.ErowEncodesRow : Prop :=
  (∀ (ra rb : Reg) (s : State) (w : Nat), s.tcValid = true → StoreInv s → w = s.gWidth.toNat →
    w ≠ 0 → w % 32 = 0 → Settled s (s.getX rb) (2 * w) → Admitted s (s.getX ra) w →
    ∃ t, exec (.dcErow ra rb) s = .next t ∧
      Completed { bw := true, bytes := [(s.getX ra, w)] } s t ∧
      t.bw = ⟨s.getX ra + BitVec.ofNat 32 w, 0, 0, 0⟩ ∧
      (Apart (s.getX ra) w (s.getX rb) (2 * w) → ∀ b (j : Phase), b < w / 32 →
        t.leValue 16 (s.getX ra + BitVec.ofNat 32 (32 * b + 16 * j.val)) =
          phaseValue (s.sampleCodes (s.getX rb + BitVec.ofNat 32 (64 * b)) j.val))) ∧
  ∀ (ra rb : Reg) (s : State), s.busy = true → s.fault = false → s.hung = false → s.tcValid = true →
    s.gWidth.toNat ≠ 0 → s.gWidth.toNat % 32 = 0 →
    ∃ t, exec (.dcErow ra rb) s = .next t ∧
      SameCodec (rowEncoded (s.getX ra) (s.getX rb) s.gWidth.toNat s) t

/-- 45_encoder.md R205, R202, R206: with a legal width DC.ENC always completes; row r goes from src + 2·r·W to
dst + r·W whatever G_STRIDE is; no rows, no effect.  On every image it leaves what DC.EROW for each row in turn leaves, up to the first that is
stuck. -/
def Obligations.EncEncodesImage : Prop :=
  (∀ (ra rb : Reg) (s : State) (w h : Nat), s.tcValid = true → StoreInv s →
    w = s.gWidth.toNat → h = s.gHeight.toNat → w ≠ 0 → w % 32 = 0 →
    Settled s (s.getX rb) (2 * w * h) → Admitted s (s.getX ra) (w * h) →
    ∃ t, exec (.dcEnc ra rb) s = .next t ∧
      Completed { bw := true, bytes := [(s.getX ra, w * h)] } s t ∧
      (h = 0 → t.bw = s.bw) ∧
      (0 < h → t.bw = ⟨s.getX ra + BitVec.ofNat 32 (w * h), 0, 0, 0⟩) ∧
      (Apart (s.getX ra) (w * h) (s.getX rb) (2 * w * h) →
        ∀ r b (j : Phase), r < h → b < w / 32 →
          t.leValue 16 (s.getX ra + BitVec.ofNat 32 (r * w + 32 * b + 16 * j.val)) =
            phaseValue (s.sampleCodes (s.getX rb + BitVec.ofNat 32 (2 * r * w + 64 * b)) j.val))) ∧
  ∀ (ra rb : Reg) (s : State) (w : Nat), s.busy = true → s.fault = false → s.hung = false →
    s.tcValid = true → w = s.gWidth.toNat → w ≠ 0 → w % 32 = 0 →
    ∃ t, exec (.dcEnc ra rb) s = .next t ∧
      SameCodec (inTurn (fun p u => exec (.dcErow 0 1) ((u.setX 0 p.1).setX 1 p.2))
        (imageRows (s.getX ra) (s.getX rb) w (2 * w) s.gHeight.toNat) s) t

/-! ### Memory -/

/-- 20_memory.md R61, R63, R67: an access of up to 4 bytes goes byte by byte from the lowest address, little-endian
and mod 2^32; at the first byte that is not admitted it is stuck, and a write's earlier bytes are written.  (Where the host has written one of the bytes during the run a read is a
race: HostMemoryAccesses.) -/
def Obligations.MemoryAccess : Prop :=
  ∀ (s : State) (a : Word) (n v : Nat), n ≤ 4 → StoreInv s →
    (Settled s a n → memRead a n s = .ok (s.leValue n a) s) ∧
    (¬Admitted s a n → ∃ d, memRead a n s = .stuck { s with draws := d }) ∧
    (Admitted s a n → ∃ t, memWrite n a v s = .ok () t ∧ t = { s with mem := t.mem, past := t.past } ∧
      (∀ k, k < n → (t.byteAt (a + BitVec.ofNat 32 k)).toNat = v / 256 ^ k % 256) ∧
      ∀ c, ¬InRange a n c → t.byteAt c = s.byteAt c) ∧
    ∀ m, m < n → Admitted s a m → s.admits (a + BitVec.ofNat 32 m) = false →
      ∃ t, memWrite n a v s = .stuck t ∧ t = { s with mem := t.mem, past := t.past } ∧
        (∀ k, k < m → (t.byteAt (a + BitVec.ofNat 32 k)).toNat = v / 256 ^ k % 256) ∧
        ∀ c, ¬InRange a m c → t.byteAt c = s.byteAt c

/-! ### The whole machine -/

/-- 10_state.md R24, 40_control.md R107: every command answers a next state, and there are four ways: completed
and CP advanced by 4, STOP with CP kept, a fault with CP and CMD_COUNT kept, or stuck, which as a next state is the model's choice
(log entry 5). -/
def Obligations.CommandPointerMoves : Prop :=
  ∀ (i : Instr) (s : State), s.busy = true → s.fault = false → s.hung = false →
    ∃ t, exec i s = .next t ∧
      ((i ≠ .stop ∧ t.busy = true ∧ t.fault = false ∧ t.hung = false ∧ t.cp = s.cp + 4 ∧
          t.cmdCount = s.cmdCount + 1) ∨
       (i = .stop ∧ t.busy = false ∧ t.done = true ∧ t.fault = false ∧ t.cp = s.cp ∧
          t.cmdCount = s.cmdCount + 1) ∨
       (i ≠ .stop ∧ t.busy = false ∧ t.fault = true ∧ t.hung = false ∧ t.cp = s.cp ∧
          t.cmdCount = s.cmdCount) ∨
       (i ≠ .stop ∧ t.busy = true ∧ t.fault = false ∧ t.hung = true ∧ t.cp = s.cp ∧
          t.cmdCount = s.cmdCount))

/-- 60_exceptions.md R218, R219, R216: a command that faults leaves a code 1..11, FAULT = 1 and BUSY = 0, and keeps
CP, CMD_COUNT, every general register (its destination too), CTRL, CMD_BASE, the curve and the geometry;
IRQ is then the level of R224. -/
def Obligations.FaultEntry : Prop :=
  ∀ (i : Instr) (s t : State), s.fault = false → s.writesLeft = none → exec i s = .next t →
    t.fault = true →
    t.busy = false ∧ 1 ≤ t.faultCode.toNat ∧ t.faultCode.toNat ≤ 11 ∧ t.cp = s.cp ∧
    t.cmdCount = s.cmdCount ∧ (∀ r, t.getX r = s.getX r) ∧ t.done = s.done ∧ t.ieDone = s.ieDone ∧
    t.ieFault = s.ieFault ∧ t.cmdBase = s.cmdBase ∧ t.hung = s.hung ∧ SameCurve s t ∧
    SameGeometry s t ∧ SameOutside s t ∧ t.irq = ((s.done && s.ieDone) || s.ieFault)

/-- 10_state.md R21, R30, R32, R36, R37, R38, R40, 20_memory.md R68: what a command changes, it is one of the
commands the rules name for it; CTRL and CMD_BASE no command changes. -/
def Obligations.OnlyNamedCommandsChange : Prop :=
  ∀ (i : Instr) (s t : State), exec i s = .next t →
    (∀ r, t.getX r ≠ s.getX r → destination i = some r) ∧
    (t.rng ≠ s.rng → (∃ rs, i = .csrw .rng rs) ∨ (∃ rd rs, i = .tcDith rd rs) ∨
      (∃ ra j, i = .dcDph ra j) ∨ (∃ ra rb, i = .dcDrow ra rb) ∨ ∃ ra rb, i = .dcDec ra rb) ∧
    (t.br ≠ s.br → (∃ ra rl, i = .brInit ra rl) ∨ (∃ rd n, i = .brPeek rd n) ∨
      (∃ rd n, i = .brGet rd n) ∨ (∃ n, i = .brSkip n) ∨ (∃ ra j, i = .dcDph ra j) ∨
      (∃ ra rb, i = .dcDrow ra rb) ∨ ∃ ra rb, i = .dcDec ra rb) ∧
    (t.bw ≠ s.bw → (∃ ra rl, i = .bwInit ra rl) ∨ (∃ rs n, i = .bwPut rs n) ∨
      (∃ ra j, i = .dcEph ra j) ∨ (∃ ra rb, i = .dcErow ra rb) ∨ ∃ ra rb, i = .dcEnc ra rb) ∧
    (t.mem ≠ s.mem → (∃ rs n, i = .bwPut rs n) ∨ (∃ ra j, i = .dcDph ra j) ∨ (∃ ra j, i = .dcEph ra j) ∨
      (∃ ra rb, i = .dcDrow ra rb) ∨ (∃ ra rb, i = .dcErow ra rb) ∨ (∃ ra rb, i = .dcDec ra rb) ∨
      ∃ ra rb, i = .dcEnc ra rb) ∧
    (¬SameGeometry s t → ∃ c rs, i = .csrw c rs ∧ isGeometry c = true) ∧
    (¬SameConstants s t → ∃ c rs, i = .csrw c rs ∧ isConstant c = true) ∧
    t.ieDone = s.ieDone ∧ t.ieFault = s.ieFault ∧ t.cmdBase = s.cmdBase

/-- 10_state.md R41, R42: only TC.BUILD writes the table and sets TC_VALID; only a write to a TC_BPn, by a command
or by the host while idle, and reset clear it; while it is 0 every reader of the table raises TABLE_NOT_BUILT
before any other effect. -/
def Obligations.TableValidity : Prop :=
  (∀ (i : Instr) (s t : State), exec i s = .next t →
    (t.tc ≠ s.tc → i = .tcBuild) ∧
    (t.tcValid = true → s.tcValid = true ∨ i = .tcBuild) ∧
    (t.tcValid = false → s.tcValid = false ∨ ∃ c rs, i = .csrw c rs ∧ isConstant c = true)) ∧
  (∀ (c : Csr) (rs : Reg) (s : State), isConstant c = true →
    ∃ t, exec (.csrw c rs) s = .next t ∧ t.tcValid = false ∧ t.tc = s.tc) ∧
  (∀ (i : Instr) (s : State), readsTable i = true → s.tcValid = false →
    exec i s = .next (s.faulted 6 0)) ∧
  (∀ (e : HostEvent) (s t : State), e ≠ .seq → hostStep e s = .next t →
    (t.tcValid = true → s.tcValid = true) ∧
    (t.tcValid = false → s.tcValid = false ∨ (∃ kept, e = .reset kept) ∨
      s.busy = false ∧ ∃ c v, isConstant c = true ∧
        e = .regWrite (s.mmioBase + 4 * (csrNum c).toNat) 4 v)) ∧
  (∀ (kept : Nat) (s t : State), hostStep (.reset kept) s = .next t → t.tcValid = false) ∧
  ∀ (c : Csr) (v : Word) (s : State), isConstant c = true → s.busy = false →
    ∃ t, hostStep (.regWrite (s.mmioBase + 4 * (csrNum c).toNat) 4 v) s = .next t ∧
      t.tcValid = false ∧ t.tc = s.tc

/-! ### Invariants of every step -/

/-- 10_state.md R25, R32, 60_exceptions.md R224, R226: every step keeps CP and CMD_BASE aligned and the STATUS bits and
fault registers legal, from every state where they are. -/
def Obligations.StepKeepsControlInv : Prop :=
  ∀ s t : State, ControlInv s → step s = .next t → ControlInv t

/-- 10_state.md R44, R45: every step keeps the bits above the reader's and the writer's counts zero. -/
def Obligations.StepKeepsStreamInv : Prop :=
  ∀ s t : State, StreamInv s → step s = .next t → StreamInv t

/-- 10_state.md R31, R41, R42: every step keeps the table whole and, while TC_VALID = 1, the one built from the
current constants. -/
def Obligations.StepKeepsTableInv : Prop :=
  ∀ s t : State, TableInv s → step s = .next t → TableInv t

/-- Every step keeps memory in its canonical form and leaves no reset half done: the model's own invariant. -/
def Obligations.StepKeepsStoreInv : Prop :=
  ∀ s t : State, StoreInv s → step s = .next t → StoreInv t

/-- 10_state.md R51: every register the spec gives a reset value holds it after reset, and IRQ is low. -/
def Obligations.ResetValues : Prop :=
  (∀ r, State.reset.getX r = 0) ∧ (∀ c, c ≠ .id → csrValue State.reset c = 0) ∧
  csrValue State.reset .id = 0x42534331 ∧ State.reset.irq = false

/-- The four invariants hold at reset (for the table's size and memory's contents, which the spec leaves open
there, log entries 1 and 2). -/
def Obligations.InvariantsHoldAtReset : Prop :=
  ControlInv State.reset ∧ StreamInv State.reset ∧ TableInv State.reset ∧ StoreInv State.reset

/-! ### The host and the reset input -/

/-- 60_exceptions.md R223: a host write of GO = 1 while idle clears DONE, FAULT, the fault registers and CMD_COUNT,
loads CP from CMD_BASE, sets BUSY, drops IRQ and keeps everything else; one while busy is ignored.  The written
word carries the enables as they are (log entry 12). -/
def Obligations.GoStartsRun : Prop :=
  ∀ (s : State) (v : Word) (rest : List HostEvent),
    s.inputs = .regWrite (s.mmioBase + 4) 4 v :: rest → v.getLsbD 0 = true →
    v.getLsbD 1 = s.ieDone → v.getLsbD 2 = s.ieFault →
    (s.busy = false → ∃ t, step s = .next t ∧
      t = { s with inputs := rest, done := false, fault := false, faultCode := 0, faultInfo := 0,
                   cmdCount := 0, cp := s.cmdBase, busy := true, past := [] } ∧ t.irq = false) ∧
    (s.busy = true → step s = .next { s with inputs := rest })

/-- 10_state.md R46, R47: while idle the host reads every CSR and every general register at its window offset, and
0 at every other aligned offset; nothing but what the host got changes. -/
def Obligations.IdleHostReads : Prop :=
  ∀ (s : State) (off : Nat) (rest : List HostEvent),
    s.inputs = .regRead (s.mmioBase + off) 4 :: rest → s.busy = false → off < 512 → off % 4 = 0 →
    ∃ t, step s = .next t ∧ t = { s with inputs := rest, hostData := t.hostData } ∧
      (∀ c : Csr, off = 4 * (csrNum c).toNat → t.hostData.toNat = csrValue s c) ∧
      (∀ r : Reg, off = 0x100 + 4 * r.val → t.hostData = s.getX r) ∧
      ((∀ c : Csr, off ≠ 4 * (csrNum c).toNat) → (∀ r : Reg, off ≠ 0x100 + 4 * r.val) →
        t.hostData = 0)

/-- 10_state.md R47, R30, R31, R32, R39: while idle a host write to Xi, CMD_BASE (bits 1:0 ignored), STATUS (write 1 to
clear DONE and FAULT, the fault registers kept), the enables of CTRL, a TC_BPn, RNG and the geometry registers
has its effect; one to a read-only register or a reserved offset has none.  A write of CTRL that carries GO takes the enables of its
word and starts the run (log entry 12). -/
def Obligations.IdleHostWrites : Prop :=
  ∀ (s : State) (off : Nat) (v : Word) (rest : List HostEvent),
    s.inputs = .regWrite (s.mmioBase + off) 4 v :: rest → s.busy = false → off < 512 → off % 4 = 0 →
    (∀ r : Reg, off = 0x100 + 4 * r.val →
      ∃ t, step s = .next t ∧ t = { s with inputs := rest, x := t.x } ∧ t.getX r = v ∧
        ∀ q, q ≠ r → t.getX q = s.getX q) ∧
    (off = 4 * 0x01 → v.getLsbD 0 = false →
      step s = .next { s with inputs := rest, ieDone := v.getLsbD 1, ieFault := v.getLsbD 2 }) ∧
    (off = 4 * 0x01 → v.getLsbD 0 = true →
      step s = .next { s with inputs := rest, ieDone := v.getLsbD 1, ieFault := v.getLsbD 2, done := false,
                              fault := false, faultCode := 0, faultInfo := 0, cmdCount := 0,
                              cp := s.cmdBase, busy := true, past := [] }) ∧
    (off = 4 * 0x02 → step s = .next
      { s with inputs := rest, done := s.done && !v.getLsbD 1, fault := s.fault && !v.getLsbD 2 }) ∧
    (off = 4 * 0x03 → ∃ t, step s = .next t ∧ t = { s with inputs := rest, cmdBase := t.cmdBase } ∧
      t.cmdBase.toNat = 4 * (v.toNat / 4)) ∧
    (off = 4 * 0x10 → step s = .next { s with inputs := rest, rng := v }) ∧
    (off = 4 * 0x20 → step s = .next { s with inputs := rest, tcBp0 := v.setWidth 16, tcValid := false }) ∧
    (off = 4 * 0x21 → step s = .next { s with inputs := rest, tcBp1 := v.setWidth 16, tcValid := false }) ∧
    (off = 4 * 0x22 → step s = .next { s with inputs := rest, tcBp2 := v.setWidth 16, tcValid := false }) ∧
    (off = 4 * 0x23 → step s = .next { s with inputs := rest, tcBp3 := v.setWidth 16, tcValid := false }) ∧
    (off = 4 * 0x28 → step s = .next { s with inputs := rest, gWidth := v }) ∧
    (off = 4 * 0x29 → step s = .next { s with inputs := rest, gHeight := v }) ∧
    (off = 4 * 0x2A → step s = .next { s with inputs := rest, gStride := v }) ∧
    (off = 4 * 0x2B → step s = .next { s with inputs := rest, gSrclen := v }) ∧
    ((∀ r : Reg, off ≠ 0x100 + 4 * r.val) →
      off ∉ [4 * 0x01, 4 * 0x02, 4 * 0x03, 4 * 0x10, 4 * 0x20, 4 * 0x21, 4 * 0x22, 4 * 0x23, 4 * 0x28,
        4 * 0x29, 4 * 0x2A, 4 * 0x2B] → step s = .next { s with inputs := rest })

/-- 10_state.md R48: while busy the host changes only CTRL's enables (a GO is ignored, and a write to STATUS finds
DONE and FAULT at 0); it reads STATUS, CP and CMD_COUNT, 0 from a reserved offset, and any value from
every other register: the model's free value (log entry 7). -/
def Obligations.BusyHostAccesses : Prop :=
  ∀ (s : State) (off : Nat) (rest : List HostEvent), ControlInv s → s.busy = true → off < 512 →
    off % 4 = 0 →
    (∀ v : Word, s.inputs = .regWrite (s.mmioBase + off) 4 v :: rest →
      (off = 4 * 0x01 →
        step s = .next { s with inputs := rest, ieDone := v.getLsbD 1, ieFault := v.getLsbD 2 }) ∧
      (off ≠ 4 * 0x01 → step s = .next { s with inputs := rest })) ∧
    (s.inputs = .regRead (s.mmioBase + off) 4 :: rest →
      ∃ t, step s = .next t ∧
        t = { s with inputs := rest, hostData := t.hostData, draws := t.draws } ∧
        (∀ c ∈ [Csr.status, .cp, .cmdCount], off = 4 * (csrNum c).toNat →
          t.hostData.toNat = csrValue s c) ∧
        ((∃ r : Reg, off = 0x100 + 4 * r.val) ∨ (∃ c : Csr, c ∉ [Csr.status, .cp, .cmdCount] ∧
          off = 4 * (csrNum c).toNat) → t.hostData = Config.busyRead s.draws) ∧
        ((∀ c : Csr, off ≠ 4 * (csrNum c).toNat) → (∀ r : Reg, off ≠ 0x100 + 4 * r.val) →
          t.hostData = 0))

/-- 20_memory.md R73, R75, 70_reset_and_hazards.md R250, 93_implementation_defined.md I22: before GO and after BUSY
falls the host reads and writes any byte the platform backs.  During a run it does too: a byte the block has not
written reads as it is, what the host itself wrote there included; a byte the host writes is then, read by the block,
the old or the new value, no other byte changed; of a byte the block has written during the run the host gets a value
it has held in the run (log entry 8).  The model
stops at a byte that is not backed and at an access that reaches the window and is not one aligned 32-bit register
(log entry 9). -/
def Obligations.HostMemoryAccesses : Prop :=
  ∀ s : State,
    (∀ a b rest, s.inputs = .memWrite a b :: rest → StoreInv s → s.admits a = true →
      ∃ t, step s = .next t ∧ t = { s with inputs := rest, mem := t.mem, past := t.past } ∧ t.byteAt a = b ∧
        (∀ c, c ≠ a → t.byteAt c = s.byteAt c) ∧ (s.busy = false → t.past = s.past) ∧
        (s.busy = true → (∀ w ∈ s.past, w.addr ≠ a) → ∀ v u, memRead a 1 t = .ok v u →
          v = (s.byteAt a).toNat ∨ v = b.toNat) ∧
        ∀ c n, Settled s c n → ¬InRange c n a → memRead c n t = .ok (s.leValue n c) t) ∧
    (∀ a rest, s.inputs = .memRead a :: rest → s.admits a = true →
      ∃ t, step s = .next t ∧ t = { s with inputs := rest, hostData := t.hostData, draws := t.draws } ∧
        (s.busy = false ∨ (∀ w ∈ s.past, w.addr = a → w.byHost = true) →
          t.draws = s.draws ∧ t.hostData.toNat = (s.byteAt a).toNat) ∧
        (t.hostData.toNat = (s.byteAt a).toNat ∨
          ∃ w ∈ s.past, w.addr = a ∧ t.hostData.toNat = w.old.toNat)) ∧
    (∀ a b rest, (s.inputs = .memWrite a b :: rest ∨ s.inputs = .memRead a :: rest) →
      s.admits a = false → step s = .refused .hostOutsideMemory) ∧
    ∀ addr size v rest, (s.inputs = .regWrite addr size v :: rest ∨ s.inputs = .regRead addr size :: rest) →
      0 < size →
      (addr < s.mmioBase + 512 → s.mmioBase < addr + size →
        ¬(s.mmioBase ≤ addr ∧ size = 4 ∧ (addr - s.mmioBase) % 4 = 0) → step s = .refused .hostAccess) ∧
      (s.mmioBase + 512 ≤ addr ∨ addr + size ≤ s.mmioBase → step s = .next { s with inputs := rest })

/-- 70_reset_and_hazards.md R245, R247, 10_state.md R51, R53: the reset input puts every register at its reset value at
any time; while idle or stuck, and where it comes before the first byte write of a run's command, memory is unchanged;
else the first `kept` byte writes of the command in progress stay, the later ones never happened, and every byte
the command does not store is unchanged (log entry 10); where all its writes stay, so do the draws it made. -/
def Obligations.ResetInput : Prop :=
  ∀ (s : State) (kept : Nat) (rest : List HostEvent), s.inputs = .reset kept :: rest →
    ∃ t, step s = .next t ∧ (∀ r, t.getX r = 0) ∧ (∀ c, c ≠ .id → csrValue t c = 0) ∧
      t.irq = false ∧ t.hung = false ∧ t.inputs = rest ∧ t.holes = s.holes ∧ t.mmioBase = s.mmioBase ∧
      (s.busy = false ∨ s.hung = true ∨ kept = 0 → t.mem = s.mem) ∧
      (StoreInv s → ∀ u l, step { s with inputs := [] } = .next u → u.past = l ++ s.past →
        t.mem = undo (l.length - kept) l u.mem ∧ (l.length ≤ kept → t.draws = u.draws) ∧
        ∀ a, (∀ w ∈ l, w.addr ≠ a) → t.byteAt a = s.byteAt a)
end

