-- ==== Sys2Proof/Laws/Curve.lean ====
section
/-!
SUPPORT. The sizes of the tone curve and of its table, and the table of a legal set.
-/

namespace Sys2Proof.Machine

/-- There is one triple per code. -/
theorem triplesFrom_length (lower : Nat) (cs : List Nat) : (triplesFrom lower cs).length = cs.length := by
  induction cs generalizing lower with
  | nil => rfl
  | cons c cs ih => cases cs <;> simp_all [triplesFrom]

theorem triples_length (cs : List Nat) : (triples cs).length = cs.length := triplesFrom_length _ cs

/-- An ascending set of codes gives every code a center. -/
theorem curve_length (b : Breakpoints) (h1 : b.bp1 ≤ b.bp2) (h2 : b.bp2 ≤ b.bp3) (h3 : b.bp3 ≤ b.bp4)
    (h4 : b.bp4 ≤ 4095) : (curve b).length = Config.tcSize := by
  simp only [curve, segments, ramp, breakpointList, Config.tcSize, List.length_cons, List.length_append,
    List.length_map, List.length_range, List.length_nil]
  omega

/-- The table of a set that passes the three checks. -/
theorem buildTable_ok {b : Breakpoints} (ha : firstDescent b = none)
    (hb : firstNegative (triples (curve b)) = none) (hc : firstDrop (triples (curve b)) = none) :
    buildTable b = .ok ((triples (curve b)).map entryOf) := by
  simp only [buildTable, ha, hb, hc]

end Sys2Proof.Machine
end

