-- ==== Sys2Proof/Laws/State.lean ====
section
/-!
SUPPORT. One lemma per field per update of State, each true by rfl, so that no later proof unfolds a
record update; and the reads of a register after a write.
-/

namespace Sys2Proof.Machine


/-! ### setX -/

@[simp] theorem State.setX_x (s : State) (r : Reg) (v : Word) : (s.setX r v).x = s.x.set r v := rfl
@[simp] theorem State.setX_cp (s : State) (r : Reg) (v : Word) : (s.setX r v).cp = s.cp := rfl
@[simp] theorem State.setX_ieDone (s : State) (r : Reg) (v : Word) : (s.setX r v).ieDone = s.ieDone := rfl
@[simp] theorem State.setX_ieFault (s : State) (r : Reg) (v : Word) : (s.setX r v).ieFault = s.ieFault := rfl
@[simp] theorem State.setX_busy (s : State) (r : Reg) (v : Word) : (s.setX r v).busy = s.busy := rfl
@[simp] theorem State.setX_done (s : State) (r : Reg) (v : Word) : (s.setX r v).done = s.done := rfl
@[simp] theorem State.setX_fault (s : State) (r : Reg) (v : Word) : (s.setX r v).fault = s.fault := rfl
@[simp] theorem State.setX_tcValid (s : State) (r : Reg) (v : Word) : (s.setX r v).tcValid = s.tcValid := rfl
@[simp] theorem State.setX_cmdBase (s : State) (r : Reg) (v : Word) : (s.setX r v).cmdBase = s.cmdBase := rfl
@[simp] theorem State.setX_cmdCount (s : State) (r : Reg) (v : Word) : (s.setX r v).cmdCount = s.cmdCount := rfl
@[simp] theorem State.setX_faultCode (s : State) (r : Reg) (v : Word) : (s.setX r v).faultCode = s.faultCode := rfl
@[simp] theorem State.setX_faultInfo (s : State) (r : Reg) (v : Word) : (s.setX r v).faultInfo = s.faultInfo := rfl
@[simp] theorem State.setX_rng (s : State) (r : Reg) (v : Word) : (s.setX r v).rng = s.rng := rfl
@[simp] theorem State.setX_br (s : State) (r : Reg) (v : Word) : (s.setX r v).br = s.br := rfl
@[simp] theorem State.setX_bw (s : State) (r : Reg) (v : Word) : (s.setX r v).bw = s.bw := rfl
@[simp] theorem State.setX_tcBp0 (s : State) (r : Reg) (v : Word) : (s.setX r v).tcBp0 = s.tcBp0 := rfl
@[simp] theorem State.setX_tcBp1 (s : State) (r : Reg) (v : Word) : (s.setX r v).tcBp1 = s.tcBp1 := rfl
@[simp] theorem State.setX_tcBp2 (s : State) (r : Reg) (v : Word) : (s.setX r v).tcBp2 = s.tcBp2 := rfl
@[simp] theorem State.setX_tcBp3 (s : State) (r : Reg) (v : Word) : (s.setX r v).tcBp3 = s.tcBp3 := rfl
@[simp] theorem State.setX_gWidth (s : State) (r : Reg) (v : Word) : (s.setX r v).gWidth = s.gWidth := rfl
@[simp] theorem State.setX_gHeight (s : State) (r : Reg) (v : Word) : (s.setX r v).gHeight = s.gHeight := rfl
@[simp] theorem State.setX_gStride (s : State) (r : Reg) (v : Word) : (s.setX r v).gStride = s.gStride := rfl
@[simp] theorem State.setX_gSrclen (s : State) (r : Reg) (v : Word) : (s.setX r v).gSrclen = s.gSrclen := rfl
@[simp] theorem State.setX_tc (s : State) (r : Reg) (v : Word) : (s.setX r v).tc = s.tc := rfl
@[simp] theorem State.setX_mem (s : State) (r : Reg) (v : Word) : (s.setX r v).mem = s.mem := rfl
@[simp] theorem State.setX_past (s : State) (r : Reg) (v : Word) : (s.setX r v).past = s.past := rfl
@[simp] theorem State.setX_hung (s : State) (r : Reg) (v : Word) : (s.setX r v).hung = s.hung := rfl
@[simp] theorem State.setX_holes (s : State) (r : Reg) (v : Word) : (s.setX r v).holes = s.holes := rfl
@[simp] theorem State.setX_mmioBase (s : State) (r : Reg) (v : Word) : (s.setX r v).mmioBase = s.mmioBase := rfl
@[simp] theorem State.setX_writesLeft (s : State) (r : Reg) (v : Word) : (s.setX r v).writesLeft = s.writesLeft := rfl
@[simp] theorem State.setX_inputs (s : State) (r : Reg) (v : Word) : (s.setX r v).inputs = s.inputs := rfl
@[simp] theorem State.setX_hostData (s : State) (r : Reg) (v : Word) : (s.setX r v).hostData = s.hostData := rfl
@[simp] theorem State.setX_draws (s : State) (r : Reg) (v : Word) : (s.setX r v).draws = s.draws := rfl

/-! ### retire -/

@[simp] theorem State.retire_x (s : State) : (s.retire).x = s.x := rfl
@[simp] theorem State.retire_cp (s : State) : (s.retire).cp = s.cp + 4 := rfl
@[simp] theorem State.retire_ieDone (s : State) : (s.retire).ieDone = s.ieDone := rfl
@[simp] theorem State.retire_ieFault (s : State) : (s.retire).ieFault = s.ieFault := rfl
@[simp] theorem State.retire_busy (s : State) : (s.retire).busy = s.busy := rfl
@[simp] theorem State.retire_done (s : State) : (s.retire).done = s.done := rfl
@[simp] theorem State.retire_fault (s : State) : (s.retire).fault = s.fault := rfl
@[simp] theorem State.retire_tcValid (s : State) : (s.retire).tcValid = s.tcValid := rfl
@[simp] theorem State.retire_cmdBase (s : State) : (s.retire).cmdBase = s.cmdBase := rfl
@[simp] theorem State.retire_cmdCount (s : State) : (s.retire).cmdCount = s.cmdCount + 1 := rfl
@[simp] theorem State.retire_faultCode (s : State) : (s.retire).faultCode = s.faultCode := rfl
@[simp] theorem State.retire_faultInfo (s : State) : (s.retire).faultInfo = s.faultInfo := rfl
@[simp] theorem State.retire_rng (s : State) : (s.retire).rng = s.rng := rfl
@[simp] theorem State.retire_br (s : State) : (s.retire).br = s.br := rfl
@[simp] theorem State.retire_bw (s : State) : (s.retire).bw = s.bw := rfl
@[simp] theorem State.retire_tcBp0 (s : State) : (s.retire).tcBp0 = s.tcBp0 := rfl
@[simp] theorem State.retire_tcBp1 (s : State) : (s.retire).tcBp1 = s.tcBp1 := rfl
@[simp] theorem State.retire_tcBp2 (s : State) : (s.retire).tcBp2 = s.tcBp2 := rfl
@[simp] theorem State.retire_tcBp3 (s : State) : (s.retire).tcBp3 = s.tcBp3 := rfl
@[simp] theorem State.retire_gWidth (s : State) : (s.retire).gWidth = s.gWidth := rfl
@[simp] theorem State.retire_gHeight (s : State) : (s.retire).gHeight = s.gHeight := rfl
@[simp] theorem State.retire_gStride (s : State) : (s.retire).gStride = s.gStride := rfl
@[simp] theorem State.retire_gSrclen (s : State) : (s.retire).gSrclen = s.gSrclen := rfl
@[simp] theorem State.retire_tc (s : State) : (s.retire).tc = s.tc := rfl
@[simp] theorem State.retire_mem (s : State) : (s.retire).mem = s.mem := rfl
@[simp] theorem State.retire_past (s : State) : (s.retire).past = s.past := rfl
@[simp] theorem State.retire_hung (s : State) : (s.retire).hung = s.hung := rfl
@[simp] theorem State.retire_holes (s : State) : (s.retire).holes = s.holes := rfl
@[simp] theorem State.retire_mmioBase (s : State) : (s.retire).mmioBase = s.mmioBase := rfl
@[simp] theorem State.retire_writesLeft (s : State) : (s.retire).writesLeft = s.writesLeft := rfl
@[simp] theorem State.retire_inputs (s : State) : (s.retire).inputs = s.inputs := rfl
@[simp] theorem State.retire_hostData (s : State) : (s.retire).hostData = s.hostData := rfl
@[simp] theorem State.retire_draws (s : State) : (s.retire).draws = s.draws := rfl

/-! ### stopRun -/

@[simp] theorem State.stopRun_x (s : State) : (s.stopRun).x = s.x := rfl
@[simp] theorem State.stopRun_cp (s : State) : (s.stopRun).cp = s.cp := rfl
@[simp] theorem State.stopRun_ieDone (s : State) : (s.stopRun).ieDone = s.ieDone := rfl
@[simp] theorem State.stopRun_ieFault (s : State) : (s.stopRun).ieFault = s.ieFault := rfl
@[simp] theorem State.stopRun_busy (s : State) : (s.stopRun).busy = false := rfl
@[simp] theorem State.stopRun_done (s : State) : (s.stopRun).done = true := rfl
@[simp] theorem State.stopRun_fault (s : State) : (s.stopRun).fault = s.fault := rfl
@[simp] theorem State.stopRun_tcValid (s : State) : (s.stopRun).tcValid = s.tcValid := rfl
@[simp] theorem State.stopRun_cmdBase (s : State) : (s.stopRun).cmdBase = s.cmdBase := rfl
@[simp] theorem State.stopRun_cmdCount (s : State) : (s.stopRun).cmdCount = s.cmdCount + 1 := rfl
@[simp] theorem State.stopRun_faultCode (s : State) : (s.stopRun).faultCode = s.faultCode := rfl
@[simp] theorem State.stopRun_faultInfo (s : State) : (s.stopRun).faultInfo = s.faultInfo := rfl
@[simp] theorem State.stopRun_rng (s : State) : (s.stopRun).rng = s.rng := rfl
@[simp] theorem State.stopRun_br (s : State) : (s.stopRun).br = s.br := rfl
@[simp] theorem State.stopRun_bw (s : State) : (s.stopRun).bw = s.bw := rfl
@[simp] theorem State.stopRun_tcBp0 (s : State) : (s.stopRun).tcBp0 = s.tcBp0 := rfl
@[simp] theorem State.stopRun_tcBp1 (s : State) : (s.stopRun).tcBp1 = s.tcBp1 := rfl
@[simp] theorem State.stopRun_tcBp2 (s : State) : (s.stopRun).tcBp2 = s.tcBp2 := rfl
@[simp] theorem State.stopRun_tcBp3 (s : State) : (s.stopRun).tcBp3 = s.tcBp3 := rfl
@[simp] theorem State.stopRun_gWidth (s : State) : (s.stopRun).gWidth = s.gWidth := rfl
@[simp] theorem State.stopRun_gHeight (s : State) : (s.stopRun).gHeight = s.gHeight := rfl
@[simp] theorem State.stopRun_gStride (s : State) : (s.stopRun).gStride = s.gStride := rfl
@[simp] theorem State.stopRun_gSrclen (s : State) : (s.stopRun).gSrclen = s.gSrclen := rfl
@[simp] theorem State.stopRun_tc (s : State) : (s.stopRun).tc = s.tc := rfl
@[simp] theorem State.stopRun_mem (s : State) : (s.stopRun).mem = s.mem := rfl
@[simp] theorem State.stopRun_past (s : State) : (s.stopRun).past = s.past := rfl
@[simp] theorem State.stopRun_hung (s : State) : (s.stopRun).hung = s.hung := rfl
@[simp] theorem State.stopRun_holes (s : State) : (s.stopRun).holes = s.holes := rfl
@[simp] theorem State.stopRun_mmioBase (s : State) : (s.stopRun).mmioBase = s.mmioBase := rfl
@[simp] theorem State.stopRun_writesLeft (s : State) : (s.stopRun).writesLeft = s.writesLeft := rfl
@[simp] theorem State.stopRun_inputs (s : State) : (s.stopRun).inputs = s.inputs := rfl
@[simp] theorem State.stopRun_hostData (s : State) : (s.stopRun).hostData = s.hostData := rfl
@[simp] theorem State.stopRun_draws (s : State) : (s.stopRun).draws = s.draws := rfl

/-! ### enterFault -/

@[simp] theorem State.enterFault_x (s : State) (c : FaultCode) (info : Word) : (s.enterFault c info).x = s.x := rfl
@[simp] theorem State.enterFault_cp (s : State) (c : FaultCode) (info : Word) : (s.enterFault c info).cp = s.cp := rfl
@[simp] theorem State.enterFault_ieDone (s : State) (c : FaultCode) (info : Word) : (s.enterFault c info).ieDone = s.ieDone := rfl
@[simp] theorem State.enterFault_ieFault (s : State) (c : FaultCode) (info : Word) : (s.enterFault c info).ieFault = s.ieFault := rfl
@[simp] theorem State.enterFault_busy (s : State) (c : FaultCode) (info : Word) : (s.enterFault c info).busy = false := rfl
@[simp] theorem State.enterFault_done (s : State) (c : FaultCode) (info : Word) : (s.enterFault c info).done = s.done := rfl
@[simp] theorem State.enterFault_fault (s : State) (c : FaultCode) (info : Word) : (s.enterFault c info).fault = true := rfl
@[simp] theorem State.enterFault_tcValid (s : State) (c : FaultCode) (info : Word) : (s.enterFault c info).tcValid = s.tcValid := rfl
@[simp] theorem State.enterFault_cmdBase (s : State) (c : FaultCode) (info : Word) : (s.enterFault c info).cmdBase = s.cmdBase := rfl
@[simp] theorem State.enterFault_cmdCount (s : State) (c : FaultCode) (info : Word) : (s.enterFault c info).cmdCount = s.cmdCount := rfl
@[simp] theorem State.enterFault_faultCode (s : State) (c : FaultCode) (info : Word) : (s.enterFault c info).faultCode = faultNum c := rfl
@[simp] theorem State.enterFault_faultInfo (s : State) (c : FaultCode) (info : Word) : (s.enterFault c info).faultInfo = info := rfl
@[simp] theorem State.enterFault_rng (s : State) (c : FaultCode) (info : Word) : (s.enterFault c info).rng = s.rng := rfl
@[simp] theorem State.enterFault_br (s : State) (c : FaultCode) (info : Word) : (s.enterFault c info).br = s.br := rfl
@[simp] theorem State.enterFault_bw (s : State) (c : FaultCode) (info : Word) : (s.enterFault c info).bw = s.bw := rfl
@[simp] theorem State.enterFault_tcBp0 (s : State) (c : FaultCode) (info : Word) : (s.enterFault c info).tcBp0 = s.tcBp0 := rfl
@[simp] theorem State.enterFault_tcBp1 (s : State) (c : FaultCode) (info : Word) : (s.enterFault c info).tcBp1 = s.tcBp1 := rfl
@[simp] theorem State.enterFault_tcBp2 (s : State) (c : FaultCode) (info : Word) : (s.enterFault c info).tcBp2 = s.tcBp2 := rfl
@[simp] theorem State.enterFault_tcBp3 (s : State) (c : FaultCode) (info : Word) : (s.enterFault c info).tcBp3 = s.tcBp3 := rfl
@[simp] theorem State.enterFault_gWidth (s : State) (c : FaultCode) (info : Word) : (s.enterFault c info).gWidth = s.gWidth := rfl
@[simp] theorem State.enterFault_gHeight (s : State) (c : FaultCode) (info : Word) : (s.enterFault c info).gHeight = s.gHeight := rfl
@[simp] theorem State.enterFault_gStride (s : State) (c : FaultCode) (info : Word) : (s.enterFault c info).gStride = s.gStride := rfl
@[simp] theorem State.enterFault_gSrclen (s : State) (c : FaultCode) (info : Word) : (s.enterFault c info).gSrclen = s.gSrclen := rfl
@[simp] theorem State.enterFault_tc (s : State) (c : FaultCode) (info : Word) : (s.enterFault c info).tc = s.tc := rfl
@[simp] theorem State.enterFault_mem (s : State) (c : FaultCode) (info : Word) : (s.enterFault c info).mem = s.mem := rfl
@[simp] theorem State.enterFault_past (s : State) (c : FaultCode) (info : Word) : (s.enterFault c info).past = s.past := rfl
@[simp] theorem State.enterFault_hung (s : State) (c : FaultCode) (info : Word) : (s.enterFault c info).hung = s.hung := rfl
@[simp] theorem State.enterFault_holes (s : State) (c : FaultCode) (info : Word) : (s.enterFault c info).holes = s.holes := rfl
@[simp] theorem State.enterFault_mmioBase (s : State) (c : FaultCode) (info : Word) : (s.enterFault c info).mmioBase = s.mmioBase := rfl
@[simp] theorem State.enterFault_writesLeft (s : State) (c : FaultCode) (info : Word) : (s.enterFault c info).writesLeft = s.writesLeft := rfl
@[simp] theorem State.enterFault_inputs (s : State) (c : FaultCode) (info : Word) : (s.enterFault c info).inputs = s.inputs := rfl
@[simp] theorem State.enterFault_hostData (s : State) (c : FaultCode) (info : Word) : (s.enterFault c info).hostData = s.hostData := rfl
@[simp] theorem State.enterFault_draws (s : State) (c : FaultCode) (info : Word) : (s.enterFault c info).draws = s.draws := rfl

/-! ### go -/

@[simp] theorem State.go_x (s : State) : (s.go).x = s.x := rfl
@[simp] theorem State.go_cp (s : State) : (s.go).cp = s.cmdBase := rfl
@[simp] theorem State.go_ieDone (s : State) : (s.go).ieDone = s.ieDone := rfl
@[simp] theorem State.go_ieFault (s : State) : (s.go).ieFault = s.ieFault := rfl
@[simp] theorem State.go_busy (s : State) : (s.go).busy = true := rfl
@[simp] theorem State.go_done (s : State) : (s.go).done = false := rfl
@[simp] theorem State.go_fault (s : State) : (s.go).fault = false := rfl
@[simp] theorem State.go_tcValid (s : State) : (s.go).tcValid = s.tcValid := rfl
@[simp] theorem State.go_cmdBase (s : State) : (s.go).cmdBase = s.cmdBase := rfl
@[simp] theorem State.go_cmdCount (s : State) : (s.go).cmdCount = 0#32 := rfl
@[simp] theorem State.go_faultCode (s : State) : (s.go).faultCode = 0#8 := rfl
@[simp] theorem State.go_faultInfo (s : State) : (s.go).faultInfo = 0#32 := rfl
@[simp] theorem State.go_rng (s : State) : (s.go).rng = s.rng := rfl
@[simp] theorem State.go_br (s : State) : (s.go).br = s.br := rfl
@[simp] theorem State.go_bw (s : State) : (s.go).bw = s.bw := rfl
@[simp] theorem State.go_tcBp0 (s : State) : (s.go).tcBp0 = s.tcBp0 := rfl
@[simp] theorem State.go_tcBp1 (s : State) : (s.go).tcBp1 = s.tcBp1 := rfl
@[simp] theorem State.go_tcBp2 (s : State) : (s.go).tcBp2 = s.tcBp2 := rfl
@[simp] theorem State.go_tcBp3 (s : State) : (s.go).tcBp3 = s.tcBp3 := rfl
@[simp] theorem State.go_gWidth (s : State) : (s.go).gWidth = s.gWidth := rfl
@[simp] theorem State.go_gHeight (s : State) : (s.go).gHeight = s.gHeight := rfl
@[simp] theorem State.go_gStride (s : State) : (s.go).gStride = s.gStride := rfl
@[simp] theorem State.go_gSrclen (s : State) : (s.go).gSrclen = s.gSrclen := rfl
@[simp] theorem State.go_tc (s : State) : (s.go).tc = s.tc := rfl
@[simp] theorem State.go_mem (s : State) : (s.go).mem = s.mem := rfl
@[simp] theorem State.go_past (s : State) : (s.go).past = [] := rfl
@[simp] theorem State.go_hung (s : State) : (s.go).hung = s.hung := rfl
@[simp] theorem State.go_holes (s : State) : (s.go).holes = s.holes := rfl
@[simp] theorem State.go_mmioBase (s : State) : (s.go).mmioBase = s.mmioBase := rfl
@[simp] theorem State.go_writesLeft (s : State) : (s.go).writesLeft = s.writesLeft := rfl
@[simp] theorem State.go_inputs (s : State) : (s.go).inputs = s.inputs := rfl
@[simp] theorem State.go_hostData (s : State) : (s.go).hostData = s.hostData := rfl
@[simp] theorem State.go_draws (s : State) : (s.go).draws = s.draws := rfl

/-! ### hang -/

@[simp] theorem State.hang_x (s : State) : (s.hang).x = s.x := rfl
@[simp] theorem State.hang_cp (s : State) : (s.hang).cp = s.cp := rfl
@[simp] theorem State.hang_ieDone (s : State) : (s.hang).ieDone = s.ieDone := rfl
@[simp] theorem State.hang_ieFault (s : State) : (s.hang).ieFault = s.ieFault := rfl
@[simp] theorem State.hang_busy (s : State) : (s.hang).busy = s.busy := rfl
@[simp] theorem State.hang_done (s : State) : (s.hang).done = s.done := rfl
@[simp] theorem State.hang_fault (s : State) : (s.hang).fault = s.fault := rfl
@[simp] theorem State.hang_tcValid (s : State) : (s.hang).tcValid = s.tcValid := rfl
@[simp] theorem State.hang_cmdBase (s : State) : (s.hang).cmdBase = s.cmdBase := rfl
@[simp] theorem State.hang_cmdCount (s : State) : (s.hang).cmdCount = s.cmdCount := rfl
@[simp] theorem State.hang_faultCode (s : State) : (s.hang).faultCode = s.faultCode := rfl
@[simp] theorem State.hang_faultInfo (s : State) : (s.hang).faultInfo = s.faultInfo := rfl
@[simp] theorem State.hang_rng (s : State) : (s.hang).rng = s.rng := rfl
@[simp] theorem State.hang_br (s : State) : (s.hang).br = s.br := rfl
@[simp] theorem State.hang_bw (s : State) : (s.hang).bw = s.bw := rfl
@[simp] theorem State.hang_tcBp0 (s : State) : (s.hang).tcBp0 = s.tcBp0 := rfl
@[simp] theorem State.hang_tcBp1 (s : State) : (s.hang).tcBp1 = s.tcBp1 := rfl
@[simp] theorem State.hang_tcBp2 (s : State) : (s.hang).tcBp2 = s.tcBp2 := rfl
@[simp] theorem State.hang_tcBp3 (s : State) : (s.hang).tcBp3 = s.tcBp3 := rfl
@[simp] theorem State.hang_gWidth (s : State) : (s.hang).gWidth = s.gWidth := rfl
@[simp] theorem State.hang_gHeight (s : State) : (s.hang).gHeight = s.gHeight := rfl
@[simp] theorem State.hang_gStride (s : State) : (s.hang).gStride = s.gStride := rfl
@[simp] theorem State.hang_gSrclen (s : State) : (s.hang).gSrclen = s.gSrclen := rfl
@[simp] theorem State.hang_tc (s : State) : (s.hang).tc = s.tc := rfl
@[simp] theorem State.hang_mem (s : State) : (s.hang).mem = s.mem := rfl
@[simp] theorem State.hang_past (s : State) : (s.hang).past = s.past := rfl
@[simp] theorem State.hang_hung (s : State) : (s.hang).hung = true := rfl
@[simp] theorem State.hang_holes (s : State) : (s.hang).holes = s.holes := rfl
@[simp] theorem State.hang_mmioBase (s : State) : (s.hang).mmioBase = s.mmioBase := rfl
@[simp] theorem State.hang_writesLeft (s : State) : (s.hang).writesLeft = s.writesLeft := rfl
@[simp] theorem State.hang_inputs (s : State) : (s.hang).inputs = s.inputs := rfl
@[simp] theorem State.hang_hostData (s : State) : (s.hang).hostData = s.hostData := rfl
@[simp] theorem State.hang_draws (s : State) : (s.hang).draws = s.draws := rfl

/-! ### openReader -/

@[simp] theorem State.openReader_x (s : State) (ptr rem : Word) : (s.openReader ptr rem).x = s.x := rfl
@[simp] theorem State.openReader_cp (s : State) (ptr rem : Word) : (s.openReader ptr rem).cp = s.cp := rfl
@[simp] theorem State.openReader_ieDone (s : State) (ptr rem : Word) : (s.openReader ptr rem).ieDone = s.ieDone := rfl
@[simp] theorem State.openReader_ieFault (s : State) (ptr rem : Word) : (s.openReader ptr rem).ieFault = s.ieFault := rfl
@[simp] theorem State.openReader_busy (s : State) (ptr rem : Word) : (s.openReader ptr rem).busy = s.busy := rfl
@[simp] theorem State.openReader_done (s : State) (ptr rem : Word) : (s.openReader ptr rem).done = s.done := rfl
@[simp] theorem State.openReader_fault (s : State) (ptr rem : Word) : (s.openReader ptr rem).fault = s.fault := rfl
@[simp] theorem State.openReader_tcValid (s : State) (ptr rem : Word) : (s.openReader ptr rem).tcValid = s.tcValid := rfl
@[simp] theorem State.openReader_cmdBase (s : State) (ptr rem : Word) : (s.openReader ptr rem).cmdBase = s.cmdBase := rfl
@[simp] theorem State.openReader_cmdCount (s : State) (ptr rem : Word) : (s.openReader ptr rem).cmdCount = s.cmdCount := rfl
@[simp] theorem State.openReader_faultCode (s : State) (ptr rem : Word) : (s.openReader ptr rem).faultCode = s.faultCode := rfl
@[simp] theorem State.openReader_faultInfo (s : State) (ptr rem : Word) : (s.openReader ptr rem).faultInfo = s.faultInfo := rfl
@[simp] theorem State.openReader_rng (s : State) (ptr rem : Word) : (s.openReader ptr rem).rng = s.rng := rfl
@[simp] theorem State.openReader_br (s : State) (ptr rem : Word) : (s.openReader ptr rem).br = ⟨ptr, rem, 0#64, 0#6⟩ := rfl
@[simp] theorem State.openReader_bw (s : State) (ptr rem : Word) : (s.openReader ptr rem).bw = s.bw := rfl
@[simp] theorem State.openReader_tcBp0 (s : State) (ptr rem : Word) : (s.openReader ptr rem).tcBp0 = s.tcBp0 := rfl
@[simp] theorem State.openReader_tcBp1 (s : State) (ptr rem : Word) : (s.openReader ptr rem).tcBp1 = s.tcBp1 := rfl
@[simp] theorem State.openReader_tcBp2 (s : State) (ptr rem : Word) : (s.openReader ptr rem).tcBp2 = s.tcBp2 := rfl
@[simp] theorem State.openReader_tcBp3 (s : State) (ptr rem : Word) : (s.openReader ptr rem).tcBp3 = s.tcBp3 := rfl
@[simp] theorem State.openReader_gWidth (s : State) (ptr rem : Word) : (s.openReader ptr rem).gWidth = s.gWidth := rfl
@[simp] theorem State.openReader_gHeight (s : State) (ptr rem : Word) : (s.openReader ptr rem).gHeight = s.gHeight := rfl
@[simp] theorem State.openReader_gStride (s : State) (ptr rem : Word) : (s.openReader ptr rem).gStride = s.gStride := rfl
@[simp] theorem State.openReader_gSrclen (s : State) (ptr rem : Word) : (s.openReader ptr rem).gSrclen = s.gSrclen := rfl
@[simp] theorem State.openReader_tc (s : State) (ptr rem : Word) : (s.openReader ptr rem).tc = s.tc := rfl
@[simp] theorem State.openReader_mem (s : State) (ptr rem : Word) : (s.openReader ptr rem).mem = s.mem := rfl
@[simp] theorem State.openReader_past (s : State) (ptr rem : Word) : (s.openReader ptr rem).past = s.past := rfl
@[simp] theorem State.openReader_hung (s : State) (ptr rem : Word) : (s.openReader ptr rem).hung = s.hung := rfl
@[simp] theorem State.openReader_holes (s : State) (ptr rem : Word) : (s.openReader ptr rem).holes = s.holes := rfl
@[simp] theorem State.openReader_mmioBase (s : State) (ptr rem : Word) : (s.openReader ptr rem).mmioBase = s.mmioBase := rfl
@[simp] theorem State.openReader_writesLeft (s : State) (ptr rem : Word) : (s.openReader ptr rem).writesLeft = s.writesLeft := rfl
@[simp] theorem State.openReader_inputs (s : State) (ptr rem : Word) : (s.openReader ptr rem).inputs = s.inputs := rfl
@[simp] theorem State.openReader_hostData (s : State) (ptr rem : Word) : (s.openReader ptr rem).hostData = s.hostData := rfl
@[simp] theorem State.openReader_draws (s : State) (ptr rem : Word) : (s.openReader ptr rem).draws = s.draws := rfl

/-! ### openWriter -/

@[simp] theorem State.openWriter_x (s : State) (ptr rem : Word) : (s.openWriter ptr rem).x = s.x := rfl
@[simp] theorem State.openWriter_cp (s : State) (ptr rem : Word) : (s.openWriter ptr rem).cp = s.cp := rfl
@[simp] theorem State.openWriter_ieDone (s : State) (ptr rem : Word) : (s.openWriter ptr rem).ieDone = s.ieDone := rfl
@[simp] theorem State.openWriter_ieFault (s : State) (ptr rem : Word) : (s.openWriter ptr rem).ieFault = s.ieFault := rfl
@[simp] theorem State.openWriter_busy (s : State) (ptr rem : Word) : (s.openWriter ptr rem).busy = s.busy := rfl
@[simp] theorem State.openWriter_done (s : State) (ptr rem : Word) : (s.openWriter ptr rem).done = s.done := rfl
@[simp] theorem State.openWriter_fault (s : State) (ptr rem : Word) : (s.openWriter ptr rem).fault = s.fault := rfl
@[simp] theorem State.openWriter_tcValid (s : State) (ptr rem : Word) : (s.openWriter ptr rem).tcValid = s.tcValid := rfl
@[simp] theorem State.openWriter_cmdBase (s : State) (ptr rem : Word) : (s.openWriter ptr rem).cmdBase = s.cmdBase := rfl
@[simp] theorem State.openWriter_cmdCount (s : State) (ptr rem : Word) : (s.openWriter ptr rem).cmdCount = s.cmdCount := rfl
@[simp] theorem State.openWriter_faultCode (s : State) (ptr rem : Word) : (s.openWriter ptr rem).faultCode = s.faultCode := rfl
@[simp] theorem State.openWriter_faultInfo (s : State) (ptr rem : Word) : (s.openWriter ptr rem).faultInfo = s.faultInfo := rfl
@[simp] theorem State.openWriter_rng (s : State) (ptr rem : Word) : (s.openWriter ptr rem).rng = s.rng := rfl
@[simp] theorem State.openWriter_br (s : State) (ptr rem : Word) : (s.openWriter ptr rem).br = s.br := rfl
@[simp] theorem State.openWriter_bw (s : State) (ptr rem : Word) : (s.openWriter ptr rem).bw = ⟨ptr, rem, 0#8, 0#3⟩ := rfl
@[simp] theorem State.openWriter_tcBp0 (s : State) (ptr rem : Word) : (s.openWriter ptr rem).tcBp0 = s.tcBp0 := rfl
@[simp] theorem State.openWriter_tcBp1 (s : State) (ptr rem : Word) : (s.openWriter ptr rem).tcBp1 = s.tcBp1 := rfl
@[simp] theorem State.openWriter_tcBp2 (s : State) (ptr rem : Word) : (s.openWriter ptr rem).tcBp2 = s.tcBp2 := rfl
@[simp] theorem State.openWriter_tcBp3 (s : State) (ptr rem : Word) : (s.openWriter ptr rem).tcBp3 = s.tcBp3 := rfl
@[simp] theorem State.openWriter_gWidth (s : State) (ptr rem : Word) : (s.openWriter ptr rem).gWidth = s.gWidth := rfl
@[simp] theorem State.openWriter_gHeight (s : State) (ptr rem : Word) : (s.openWriter ptr rem).gHeight = s.gHeight := rfl
@[simp] theorem State.openWriter_gStride (s : State) (ptr rem : Word) : (s.openWriter ptr rem).gStride = s.gStride := rfl
@[simp] theorem State.openWriter_gSrclen (s : State) (ptr rem : Word) : (s.openWriter ptr rem).gSrclen = s.gSrclen := rfl
@[simp] theorem State.openWriter_tc (s : State) (ptr rem : Word) : (s.openWriter ptr rem).tc = s.tc := rfl
@[simp] theorem State.openWriter_mem (s : State) (ptr rem : Word) : (s.openWriter ptr rem).mem = s.mem := rfl
@[simp] theorem State.openWriter_past (s : State) (ptr rem : Word) : (s.openWriter ptr rem).past = s.past := rfl
@[simp] theorem State.openWriter_hung (s : State) (ptr rem : Word) : (s.openWriter ptr rem).hung = s.hung := rfl
@[simp] theorem State.openWriter_holes (s : State) (ptr rem : Word) : (s.openWriter ptr rem).holes = s.holes := rfl
@[simp] theorem State.openWriter_mmioBase (s : State) (ptr rem : Word) : (s.openWriter ptr rem).mmioBase = s.mmioBase := rfl
@[simp] theorem State.openWriter_writesLeft (s : State) (ptr rem : Word) : (s.openWriter ptr rem).writesLeft = s.writesLeft := rfl
@[simp] theorem State.openWriter_inputs (s : State) (ptr rem : Word) : (s.openWriter ptr rem).inputs = s.inputs := rfl
@[simp] theorem State.openWriter_hostData (s : State) (ptr rem : Word) : (s.openWriter ptr rem).hostData = s.hostData := rfl
@[simp] theorem State.openWriter_draws (s : State) (ptr rem : Word) : (s.openWriter ptr rem).draws = s.draws := rfl

/-! ### writeStatus -/

@[simp] theorem State.writeStatus_x (s : State) (v : Word) : (s.writeStatus v).x = s.x := rfl
@[simp] theorem State.writeStatus_cp (s : State) (v : Word) : (s.writeStatus v).cp = s.cp := rfl
@[simp] theorem State.writeStatus_ieDone (s : State) (v : Word) : (s.writeStatus v).ieDone = s.ieDone := rfl
@[simp] theorem State.writeStatus_ieFault (s : State) (v : Word) : (s.writeStatus v).ieFault = s.ieFault := rfl
@[simp] theorem State.writeStatus_busy (s : State) (v : Word) : (s.writeStatus v).busy = s.busy := rfl
@[simp] theorem State.writeStatus_done (s : State) (v : Word) : (s.writeStatus v).done = (s.done && !v.getLsbD 1) := rfl
@[simp] theorem State.writeStatus_fault (s : State) (v : Word) : (s.writeStatus v).fault = (s.fault && !v.getLsbD 2) := rfl
@[simp] theorem State.writeStatus_tcValid (s : State) (v : Word) : (s.writeStatus v).tcValid = s.tcValid := rfl
@[simp] theorem State.writeStatus_cmdBase (s : State) (v : Word) : (s.writeStatus v).cmdBase = s.cmdBase := rfl
@[simp] theorem State.writeStatus_cmdCount (s : State) (v : Word) : (s.writeStatus v).cmdCount = s.cmdCount := rfl
@[simp] theorem State.writeStatus_faultCode (s : State) (v : Word) : (s.writeStatus v).faultCode = s.faultCode := rfl
@[simp] theorem State.writeStatus_faultInfo (s : State) (v : Word) : (s.writeStatus v).faultInfo = s.faultInfo := rfl
@[simp] theorem State.writeStatus_rng (s : State) (v : Word) : (s.writeStatus v).rng = s.rng := rfl
@[simp] theorem State.writeStatus_br (s : State) (v : Word) : (s.writeStatus v).br = s.br := rfl
@[simp] theorem State.writeStatus_bw (s : State) (v : Word) : (s.writeStatus v).bw = s.bw := rfl
@[simp] theorem State.writeStatus_tcBp0 (s : State) (v : Word) : (s.writeStatus v).tcBp0 = s.tcBp0 := rfl
@[simp] theorem State.writeStatus_tcBp1 (s : State) (v : Word) : (s.writeStatus v).tcBp1 = s.tcBp1 := rfl
@[simp] theorem State.writeStatus_tcBp2 (s : State) (v : Word) : (s.writeStatus v).tcBp2 = s.tcBp2 := rfl
@[simp] theorem State.writeStatus_tcBp3 (s : State) (v : Word) : (s.writeStatus v).tcBp3 = s.tcBp3 := rfl
@[simp] theorem State.writeStatus_gWidth (s : State) (v : Word) : (s.writeStatus v).gWidth = s.gWidth := rfl
@[simp] theorem State.writeStatus_gHeight (s : State) (v : Word) : (s.writeStatus v).gHeight = s.gHeight := rfl
@[simp] theorem State.writeStatus_gStride (s : State) (v : Word) : (s.writeStatus v).gStride = s.gStride := rfl
@[simp] theorem State.writeStatus_gSrclen (s : State) (v : Word) : (s.writeStatus v).gSrclen = s.gSrclen := rfl
@[simp] theorem State.writeStatus_tc (s : State) (v : Word) : (s.writeStatus v).tc = s.tc := rfl
@[simp] theorem State.writeStatus_mem (s : State) (v : Word) : (s.writeStatus v).mem = s.mem := rfl
@[simp] theorem State.writeStatus_past (s : State) (v : Word) : (s.writeStatus v).past = s.past := rfl
@[simp] theorem State.writeStatus_hung (s : State) (v : Word) : (s.writeStatus v).hung = s.hung := rfl
@[simp] theorem State.writeStatus_holes (s : State) (v : Word) : (s.writeStatus v).holes = s.holes := rfl
@[simp] theorem State.writeStatus_mmioBase (s : State) (v : Word) : (s.writeStatus v).mmioBase = s.mmioBase := rfl
@[simp] theorem State.writeStatus_writesLeft (s : State) (v : Word) : (s.writeStatus v).writesLeft = s.writesLeft := rfl
@[simp] theorem State.writeStatus_inputs (s : State) (v : Word) : (s.writeStatus v).inputs = s.inputs := rfl
@[simp] theorem State.writeStatus_hostData (s : State) (v : Word) : (s.writeStatus v).hostData = s.hostData := rfl
@[simp] theorem State.writeStatus_draws (s : State) (v : Word) : (s.writeStatus v).draws = s.draws := rfl

/-! ### writeEnables -/

@[simp] theorem State.writeEnables_x (s : State) (v : Word) : (s.writeEnables v).x = s.x := rfl
@[simp] theorem State.writeEnables_cp (s : State) (v : Word) : (s.writeEnables v).cp = s.cp := rfl
@[simp] theorem State.writeEnables_ieDone (s : State) (v : Word) : (s.writeEnables v).ieDone = v.getLsbD 1 := rfl
@[simp] theorem State.writeEnables_ieFault (s : State) (v : Word) : (s.writeEnables v).ieFault = v.getLsbD 2 := rfl
@[simp] theorem State.writeEnables_busy (s : State) (v : Word) : (s.writeEnables v).busy = s.busy := rfl
@[simp] theorem State.writeEnables_done (s : State) (v : Word) : (s.writeEnables v).done = s.done := rfl
@[simp] theorem State.writeEnables_fault (s : State) (v : Word) : (s.writeEnables v).fault = s.fault := rfl
@[simp] theorem State.writeEnables_tcValid (s : State) (v : Word) : (s.writeEnables v).tcValid = s.tcValid := rfl
@[simp] theorem State.writeEnables_cmdBase (s : State) (v : Word) : (s.writeEnables v).cmdBase = s.cmdBase := rfl
@[simp] theorem State.writeEnables_cmdCount (s : State) (v : Word) : (s.writeEnables v).cmdCount = s.cmdCount := rfl
@[simp] theorem State.writeEnables_faultCode (s : State) (v : Word) : (s.writeEnables v).faultCode = s.faultCode := rfl
@[simp] theorem State.writeEnables_faultInfo (s : State) (v : Word) : (s.writeEnables v).faultInfo = s.faultInfo := rfl
@[simp] theorem State.writeEnables_rng (s : State) (v : Word) : (s.writeEnables v).rng = s.rng := rfl
@[simp] theorem State.writeEnables_br (s : State) (v : Word) : (s.writeEnables v).br = s.br := rfl
@[simp] theorem State.writeEnables_bw (s : State) (v : Word) : (s.writeEnables v).bw = s.bw := rfl
@[simp] theorem State.writeEnables_tcBp0 (s : State) (v : Word) : (s.writeEnables v).tcBp0 = s.tcBp0 := rfl
@[simp] theorem State.writeEnables_tcBp1 (s : State) (v : Word) : (s.writeEnables v).tcBp1 = s.tcBp1 := rfl
@[simp] theorem State.writeEnables_tcBp2 (s : State) (v : Word) : (s.writeEnables v).tcBp2 = s.tcBp2 := rfl
@[simp] theorem State.writeEnables_tcBp3 (s : State) (v : Word) : (s.writeEnables v).tcBp3 = s.tcBp3 := rfl
@[simp] theorem State.writeEnables_gWidth (s : State) (v : Word) : (s.writeEnables v).gWidth = s.gWidth := rfl
@[simp] theorem State.writeEnables_gHeight (s : State) (v : Word) : (s.writeEnables v).gHeight = s.gHeight := rfl
@[simp] theorem State.writeEnables_gStride (s : State) (v : Word) : (s.writeEnables v).gStride = s.gStride := rfl
@[simp] theorem State.writeEnables_gSrclen (s : State) (v : Word) : (s.writeEnables v).gSrclen = s.gSrclen := rfl
@[simp] theorem State.writeEnables_tc (s : State) (v : Word) : (s.writeEnables v).tc = s.tc := rfl
@[simp] theorem State.writeEnables_mem (s : State) (v : Word) : (s.writeEnables v).mem = s.mem := rfl
@[simp] theorem State.writeEnables_past (s : State) (v : Word) : (s.writeEnables v).past = s.past := rfl
@[simp] theorem State.writeEnables_hung (s : State) (v : Word) : (s.writeEnables v).hung = s.hung := rfl
@[simp] theorem State.writeEnables_holes (s : State) (v : Word) : (s.writeEnables v).holes = s.holes := rfl
@[simp] theorem State.writeEnables_mmioBase (s : State) (v : Word) : (s.writeEnables v).mmioBase = s.mmioBase := rfl
@[simp] theorem State.writeEnables_writesLeft (s : State) (v : Word) : (s.writeEnables v).writesLeft = s.writesLeft := rfl
@[simp] theorem State.writeEnables_inputs (s : State) (v : Word) : (s.writeEnables v).inputs = s.inputs := rfl
@[simp] theorem State.writeEnables_hostData (s : State) (v : Word) : (s.writeEnables v).hostData = s.hostData := rfl
@[simp] theorem State.writeEnables_draws (s : State) (v : Word) : (s.writeEnables v).draws = s.draws := rfl

/-! ### storeByte -/

@[simp] theorem State.storeByte_x (s : State) (byHost : Bool) (a : Word) (b : Byte) : (s.storeByte byHost a b).x = s.x := rfl
@[simp] theorem State.storeByte_cp (s : State) (byHost : Bool) (a : Word) (b : Byte) : (s.storeByte byHost a b).cp = s.cp := rfl
@[simp] theorem State.storeByte_ieDone (s : State) (byHost : Bool) (a : Word) (b : Byte) : (s.storeByte byHost a b).ieDone = s.ieDone := rfl
@[simp] theorem State.storeByte_ieFault (s : State) (byHost : Bool) (a : Word) (b : Byte) : (s.storeByte byHost a b).ieFault = s.ieFault := rfl
@[simp] theorem State.storeByte_busy (s : State) (byHost : Bool) (a : Word) (b : Byte) : (s.storeByte byHost a b).busy = s.busy := rfl
@[simp] theorem State.storeByte_done (s : State) (byHost : Bool) (a : Word) (b : Byte) : (s.storeByte byHost a b).done = s.done := rfl
@[simp] theorem State.storeByte_fault (s : State) (byHost : Bool) (a : Word) (b : Byte) : (s.storeByte byHost a b).fault = s.fault := rfl
@[simp] theorem State.storeByte_tcValid (s : State) (byHost : Bool) (a : Word) (b : Byte) : (s.storeByte byHost a b).tcValid = s.tcValid := rfl
@[simp] theorem State.storeByte_cmdBase (s : State) (byHost : Bool) (a : Word) (b : Byte) : (s.storeByte byHost a b).cmdBase = s.cmdBase := rfl
@[simp] theorem State.storeByte_cmdCount (s : State) (byHost : Bool) (a : Word) (b : Byte) : (s.storeByte byHost a b).cmdCount = s.cmdCount := rfl
@[simp] theorem State.storeByte_faultCode (s : State) (byHost : Bool) (a : Word) (b : Byte) : (s.storeByte byHost a b).faultCode = s.faultCode := rfl
@[simp] theorem State.storeByte_faultInfo (s : State) (byHost : Bool) (a : Word) (b : Byte) : (s.storeByte byHost a b).faultInfo = s.faultInfo := rfl
@[simp] theorem State.storeByte_rng (s : State) (byHost : Bool) (a : Word) (b : Byte) : (s.storeByte byHost a b).rng = s.rng := rfl
@[simp] theorem State.storeByte_br (s : State) (byHost : Bool) (a : Word) (b : Byte) : (s.storeByte byHost a b).br = s.br := rfl
@[simp] theorem State.storeByte_bw (s : State) (byHost : Bool) (a : Word) (b : Byte) : (s.storeByte byHost a b).bw = s.bw := rfl
@[simp] theorem State.storeByte_tcBp0 (s : State) (byHost : Bool) (a : Word) (b : Byte) : (s.storeByte byHost a b).tcBp0 = s.tcBp0 := rfl
@[simp] theorem State.storeByte_tcBp1 (s : State) (byHost : Bool) (a : Word) (b : Byte) : (s.storeByte byHost a b).tcBp1 = s.tcBp1 := rfl
@[simp] theorem State.storeByte_tcBp2 (s : State) (byHost : Bool) (a : Word) (b : Byte) : (s.storeByte byHost a b).tcBp2 = s.tcBp2 := rfl
@[simp] theorem State.storeByte_tcBp3 (s : State) (byHost : Bool) (a : Word) (b : Byte) : (s.storeByte byHost a b).tcBp3 = s.tcBp3 := rfl
@[simp] theorem State.storeByte_gWidth (s : State) (byHost : Bool) (a : Word) (b : Byte) : (s.storeByte byHost a b).gWidth = s.gWidth := rfl
@[simp] theorem State.storeByte_gHeight (s : State) (byHost : Bool) (a : Word) (b : Byte) : (s.storeByte byHost a b).gHeight = s.gHeight := rfl
@[simp] theorem State.storeByte_gStride (s : State) (byHost : Bool) (a : Word) (b : Byte) : (s.storeByte byHost a b).gStride = s.gStride := rfl
@[simp] theorem State.storeByte_gSrclen (s : State) (byHost : Bool) (a : Word) (b : Byte) : (s.storeByte byHost a b).gSrclen = s.gSrclen := rfl
@[simp] theorem State.storeByte_tc (s : State) (byHost : Bool) (a : Word) (b : Byte) : (s.storeByte byHost a b).tc = s.tc := rfl
@[simp] theorem State.storeByte_mem (s : State) (byHost : Bool) (a : Word) (b : Byte) : (s.storeByte byHost a b).mem = s.mem.write a.toNat b := rfl
@[simp] theorem State.storeByte_past (s : State) (byHost : Bool) (a : Word) (b : Byte) : (s.storeByte byHost a b).past = ⟨a, s.mem.read a.toNat, byHost⟩ :: s.past := rfl
@[simp] theorem State.storeByte_hung (s : State) (byHost : Bool) (a : Word) (b : Byte) : (s.storeByte byHost a b).hung = s.hung := rfl
@[simp] theorem State.storeByte_holes (s : State) (byHost : Bool) (a : Word) (b : Byte) : (s.storeByte byHost a b).holes = s.holes := rfl
@[simp] theorem State.storeByte_mmioBase (s : State) (byHost : Bool) (a : Word) (b : Byte) : (s.storeByte byHost a b).mmioBase = s.mmioBase := rfl
@[simp] theorem State.storeByte_writesLeft (s : State) (byHost : Bool) (a : Word) (b : Byte) : (s.storeByte byHost a b).writesLeft = s.writesLeft := rfl
@[simp] theorem State.storeByte_inputs (s : State) (byHost : Bool) (a : Word) (b : Byte) : (s.storeByte byHost a b).inputs = s.inputs := rfl
@[simp] theorem State.storeByte_hostData (s : State) (byHost : Bool) (a : Word) (b : Byte) : (s.storeByte byHost a b).hostData = s.hostData := rfl
@[simp] theorem State.storeByte_draws (s : State) (byHost : Bool) (a : Word) (b : Byte) : (s.storeByte byHost a b).draws = s.draws := rfl

/-! ### drawn -/

@[simp] theorem State.drawn_x (s : State) : (s.drawn).x = s.x := rfl
@[simp] theorem State.drawn_cp (s : State) : (s.drawn).cp = s.cp := rfl
@[simp] theorem State.drawn_ieDone (s : State) : (s.drawn).ieDone = s.ieDone := rfl
@[simp] theorem State.drawn_ieFault (s : State) : (s.drawn).ieFault = s.ieFault := rfl
@[simp] theorem State.drawn_busy (s : State) : (s.drawn).busy = s.busy := rfl
@[simp] theorem State.drawn_done (s : State) : (s.drawn).done = s.done := rfl
@[simp] theorem State.drawn_fault (s : State) : (s.drawn).fault = s.fault := rfl
@[simp] theorem State.drawn_tcValid (s : State) : (s.drawn).tcValid = s.tcValid := rfl
@[simp] theorem State.drawn_cmdBase (s : State) : (s.drawn).cmdBase = s.cmdBase := rfl
@[simp] theorem State.drawn_cmdCount (s : State) : (s.drawn).cmdCount = s.cmdCount := rfl
@[simp] theorem State.drawn_faultCode (s : State) : (s.drawn).faultCode = s.faultCode := rfl
@[simp] theorem State.drawn_faultInfo (s : State) : (s.drawn).faultInfo = s.faultInfo := rfl
@[simp] theorem State.drawn_rng (s : State) : (s.drawn).rng = s.rng := rfl
@[simp] theorem State.drawn_br (s : State) : (s.drawn).br = s.br := rfl
@[simp] theorem State.drawn_bw (s : State) : (s.drawn).bw = s.bw := rfl
@[simp] theorem State.drawn_tcBp0 (s : State) : (s.drawn).tcBp0 = s.tcBp0 := rfl
@[simp] theorem State.drawn_tcBp1 (s : State) : (s.drawn).tcBp1 = s.tcBp1 := rfl
@[simp] theorem State.drawn_tcBp2 (s : State) : (s.drawn).tcBp2 = s.tcBp2 := rfl
@[simp] theorem State.drawn_tcBp3 (s : State) : (s.drawn).tcBp3 = s.tcBp3 := rfl
@[simp] theorem State.drawn_gWidth (s : State) : (s.drawn).gWidth = s.gWidth := rfl
@[simp] theorem State.drawn_gHeight (s : State) : (s.drawn).gHeight = s.gHeight := rfl
@[simp] theorem State.drawn_gStride (s : State) : (s.drawn).gStride = s.gStride := rfl
@[simp] theorem State.drawn_gSrclen (s : State) : (s.drawn).gSrclen = s.gSrclen := rfl
@[simp] theorem State.drawn_tc (s : State) : (s.drawn).tc = s.tc := rfl
@[simp] theorem State.drawn_mem (s : State) : (s.drawn).mem = s.mem := rfl
@[simp] theorem State.drawn_past (s : State) : (s.drawn).past = s.past := rfl
@[simp] theorem State.drawn_hung (s : State) : (s.drawn).hung = s.hung := rfl
@[simp] theorem State.drawn_holes (s : State) : (s.drawn).holes = s.holes := rfl
@[simp] theorem State.drawn_mmioBase (s : State) : (s.drawn).mmioBase = s.mmioBase := rfl
@[simp] theorem State.drawn_writesLeft (s : State) : (s.drawn).writesLeft = s.writesLeft := rfl
@[simp] theorem State.drawn_inputs (s : State) : (s.drawn).inputs = s.inputs := rfl
@[simp] theorem State.drawn_hostData (s : State) : (s.drawn).hostData = s.hostData := rfl
@[simp] theorem State.drawn_draws (s : State) : (s.drawn).draws = s.draws + 1 := rfl

/-! ### hostGets -/

@[simp] theorem State.hostGets_x (s : State) (v : Word) : (s.hostGets v).x = s.x := rfl
@[simp] theorem State.hostGets_cp (s : State) (v : Word) : (s.hostGets v).cp = s.cp := rfl
@[simp] theorem State.hostGets_ieDone (s : State) (v : Word) : (s.hostGets v).ieDone = s.ieDone := rfl
@[simp] theorem State.hostGets_ieFault (s : State) (v : Word) : (s.hostGets v).ieFault = s.ieFault := rfl
@[simp] theorem State.hostGets_busy (s : State) (v : Word) : (s.hostGets v).busy = s.busy := rfl
@[simp] theorem State.hostGets_done (s : State) (v : Word) : (s.hostGets v).done = s.done := rfl
@[simp] theorem State.hostGets_fault (s : State) (v : Word) : (s.hostGets v).fault = s.fault := rfl
@[simp] theorem State.hostGets_tcValid (s : State) (v : Word) : (s.hostGets v).tcValid = s.tcValid := rfl
@[simp] theorem State.hostGets_cmdBase (s : State) (v : Word) : (s.hostGets v).cmdBase = s.cmdBase := rfl
@[simp] theorem State.hostGets_cmdCount (s : State) (v : Word) : (s.hostGets v).cmdCount = s.cmdCount := rfl
@[simp] theorem State.hostGets_faultCode (s : State) (v : Word) : (s.hostGets v).faultCode = s.faultCode := rfl
@[simp] theorem State.hostGets_faultInfo (s : State) (v : Word) : (s.hostGets v).faultInfo = s.faultInfo := rfl
@[simp] theorem State.hostGets_rng (s : State) (v : Word) : (s.hostGets v).rng = s.rng := rfl
@[simp] theorem State.hostGets_br (s : State) (v : Word) : (s.hostGets v).br = s.br := rfl
@[simp] theorem State.hostGets_bw (s : State) (v : Word) : (s.hostGets v).bw = s.bw := rfl
@[simp] theorem State.hostGets_tcBp0 (s : State) (v : Word) : (s.hostGets v).tcBp0 = s.tcBp0 := rfl
@[simp] theorem State.hostGets_tcBp1 (s : State) (v : Word) : (s.hostGets v).tcBp1 = s.tcBp1 := rfl
@[simp] theorem State.hostGets_tcBp2 (s : State) (v : Word) : (s.hostGets v).tcBp2 = s.tcBp2 := rfl
@[simp] theorem State.hostGets_tcBp3 (s : State) (v : Word) : (s.hostGets v).tcBp3 = s.tcBp3 := rfl
@[simp] theorem State.hostGets_gWidth (s : State) (v : Word) : (s.hostGets v).gWidth = s.gWidth := rfl
@[simp] theorem State.hostGets_gHeight (s : State) (v : Word) : (s.hostGets v).gHeight = s.gHeight := rfl
@[simp] theorem State.hostGets_gStride (s : State) (v : Word) : (s.hostGets v).gStride = s.gStride := rfl
@[simp] theorem State.hostGets_gSrclen (s : State) (v : Word) : (s.hostGets v).gSrclen = s.gSrclen := rfl
@[simp] theorem State.hostGets_tc (s : State) (v : Word) : (s.hostGets v).tc = s.tc := rfl
@[simp] theorem State.hostGets_mem (s : State) (v : Word) : (s.hostGets v).mem = s.mem := rfl
@[simp] theorem State.hostGets_past (s : State) (v : Word) : (s.hostGets v).past = s.past := rfl
@[simp] theorem State.hostGets_hung (s : State) (v : Word) : (s.hostGets v).hung = s.hung := rfl
@[simp] theorem State.hostGets_holes (s : State) (v : Word) : (s.hostGets v).holes = s.holes := rfl
@[simp] theorem State.hostGets_mmioBase (s : State) (v : Word) : (s.hostGets v).mmioBase = s.mmioBase := rfl
@[simp] theorem State.hostGets_writesLeft (s : State) (v : Word) : (s.hostGets v).writesLeft = s.writesLeft := rfl
@[simp] theorem State.hostGets_inputs (s : State) (v : Word) : (s.hostGets v).inputs = s.inputs := rfl
@[simp] theorem State.hostGets_hostData (s : State) (v : Word) : (s.hostGets v).hostData = v := rfl
@[simp] theorem State.hostGets_draws (s : State) (v : Word) : (s.hostGets v).draws = s.draws := rfl

/-! ### hostGetsAny -/

@[simp] theorem State.hostGetsAny_x (s : State) : (s.hostGetsAny).x = s.x := rfl
@[simp] theorem State.hostGetsAny_cp (s : State) : (s.hostGetsAny).cp = s.cp := rfl
@[simp] theorem State.hostGetsAny_ieDone (s : State) : (s.hostGetsAny).ieDone = s.ieDone := rfl
@[simp] theorem State.hostGetsAny_ieFault (s : State) : (s.hostGetsAny).ieFault = s.ieFault := rfl
@[simp] theorem State.hostGetsAny_busy (s : State) : (s.hostGetsAny).busy = s.busy := rfl
@[simp] theorem State.hostGetsAny_done (s : State) : (s.hostGetsAny).done = s.done := rfl
@[simp] theorem State.hostGetsAny_fault (s : State) : (s.hostGetsAny).fault = s.fault := rfl
@[simp] theorem State.hostGetsAny_tcValid (s : State) : (s.hostGetsAny).tcValid = s.tcValid := rfl
@[simp] theorem State.hostGetsAny_cmdBase (s : State) : (s.hostGetsAny).cmdBase = s.cmdBase := rfl
@[simp] theorem State.hostGetsAny_cmdCount (s : State) : (s.hostGetsAny).cmdCount = s.cmdCount := rfl
@[simp] theorem State.hostGetsAny_faultCode (s : State) : (s.hostGetsAny).faultCode = s.faultCode := rfl
@[simp] theorem State.hostGetsAny_faultInfo (s : State) : (s.hostGetsAny).faultInfo = s.faultInfo := rfl
@[simp] theorem State.hostGetsAny_rng (s : State) : (s.hostGetsAny).rng = s.rng := rfl
@[simp] theorem State.hostGetsAny_br (s : State) : (s.hostGetsAny).br = s.br := rfl
@[simp] theorem State.hostGetsAny_bw (s : State) : (s.hostGetsAny).bw = s.bw := rfl
@[simp] theorem State.hostGetsAny_tcBp0 (s : State) : (s.hostGetsAny).tcBp0 = s.tcBp0 := rfl
@[simp] theorem State.hostGetsAny_tcBp1 (s : State) : (s.hostGetsAny).tcBp1 = s.tcBp1 := rfl
@[simp] theorem State.hostGetsAny_tcBp2 (s : State) : (s.hostGetsAny).tcBp2 = s.tcBp2 := rfl
@[simp] theorem State.hostGetsAny_tcBp3 (s : State) : (s.hostGetsAny).tcBp3 = s.tcBp3 := rfl
@[simp] theorem State.hostGetsAny_gWidth (s : State) : (s.hostGetsAny).gWidth = s.gWidth := rfl
@[simp] theorem State.hostGetsAny_gHeight (s : State) : (s.hostGetsAny).gHeight = s.gHeight := rfl
@[simp] theorem State.hostGetsAny_gStride (s : State) : (s.hostGetsAny).gStride = s.gStride := rfl
@[simp] theorem State.hostGetsAny_gSrclen (s : State) : (s.hostGetsAny).gSrclen = s.gSrclen := rfl
@[simp] theorem State.hostGetsAny_tc (s : State) : (s.hostGetsAny).tc = s.tc := rfl
@[simp] theorem State.hostGetsAny_mem (s : State) : (s.hostGetsAny).mem = s.mem := rfl
@[simp] theorem State.hostGetsAny_past (s : State) : (s.hostGetsAny).past = s.past := rfl
@[simp] theorem State.hostGetsAny_hung (s : State) : (s.hostGetsAny).hung = s.hung := rfl
@[simp] theorem State.hostGetsAny_holes (s : State) : (s.hostGetsAny).holes = s.holes := rfl
@[simp] theorem State.hostGetsAny_mmioBase (s : State) : (s.hostGetsAny).mmioBase = s.mmioBase := rfl
@[simp] theorem State.hostGetsAny_writesLeft (s : State) : (s.hostGetsAny).writesLeft = s.writesLeft := rfl
@[simp] theorem State.hostGetsAny_inputs (s : State) : (s.hostGetsAny).inputs = s.inputs := rfl
@[simp] theorem State.hostGetsAny_hostData (s : State) : (s.hostGetsAny).hostData = Config.busyRead s.draws := rfl
@[simp] theorem State.hostGetsAny_draws (s : State) : (s.hostGetsAny).draws = s.draws + 1 := rfl

/-! ### resetWith -/

@[simp] theorem State.resetWith_x (s : State) (cut : State) : (s.resetWith cut).x = State.reset.x := rfl
@[simp] theorem State.resetWith_cp (s : State) (cut : State) : (s.resetWith cut).cp = State.reset.cp := rfl
@[simp] theorem State.resetWith_ieDone (s : State) (cut : State) : (s.resetWith cut).ieDone = State.reset.ieDone := rfl
@[simp] theorem State.resetWith_ieFault (s : State) (cut : State) : (s.resetWith cut).ieFault = State.reset.ieFault := rfl
@[simp] theorem State.resetWith_busy (s : State) (cut : State) : (s.resetWith cut).busy = State.reset.busy := rfl
@[simp] theorem State.resetWith_done (s : State) (cut : State) : (s.resetWith cut).done = State.reset.done := rfl
@[simp] theorem State.resetWith_fault (s : State) (cut : State) : (s.resetWith cut).fault = State.reset.fault := rfl
@[simp] theorem State.resetWith_tcValid (s : State) (cut : State) : (s.resetWith cut).tcValid = State.reset.tcValid := rfl
@[simp] theorem State.resetWith_cmdBase (s : State) (cut : State) : (s.resetWith cut).cmdBase = State.reset.cmdBase := rfl
@[simp] theorem State.resetWith_cmdCount (s : State) (cut : State) : (s.resetWith cut).cmdCount = State.reset.cmdCount := rfl
@[simp] theorem State.resetWith_faultCode (s : State) (cut : State) : (s.resetWith cut).faultCode = State.reset.faultCode := rfl
@[simp] theorem State.resetWith_faultInfo (s : State) (cut : State) : (s.resetWith cut).faultInfo = State.reset.faultInfo := rfl
@[simp] theorem State.resetWith_rng (s : State) (cut : State) : (s.resetWith cut).rng = State.reset.rng := rfl
@[simp] theorem State.resetWith_br (s : State) (cut : State) : (s.resetWith cut).br = State.reset.br := rfl
@[simp] theorem State.resetWith_bw (s : State) (cut : State) : (s.resetWith cut).bw = State.reset.bw := rfl
@[simp] theorem State.resetWith_tcBp0 (s : State) (cut : State) : (s.resetWith cut).tcBp0 = State.reset.tcBp0 := rfl
@[simp] theorem State.resetWith_tcBp1 (s : State) (cut : State) : (s.resetWith cut).tcBp1 = State.reset.tcBp1 := rfl
@[simp] theorem State.resetWith_tcBp2 (s : State) (cut : State) : (s.resetWith cut).tcBp2 = State.reset.tcBp2 := rfl
@[simp] theorem State.resetWith_tcBp3 (s : State) (cut : State) : (s.resetWith cut).tcBp3 = State.reset.tcBp3 := rfl
@[simp] theorem State.resetWith_gWidth (s : State) (cut : State) : (s.resetWith cut).gWidth = State.reset.gWidth := rfl
@[simp] theorem State.resetWith_gHeight (s : State) (cut : State) : (s.resetWith cut).gHeight = State.reset.gHeight := rfl
@[simp] theorem State.resetWith_gStride (s : State) (cut : State) : (s.resetWith cut).gStride = State.reset.gStride := rfl
@[simp] theorem State.resetWith_gSrclen (s : State) (cut : State) : (s.resetWith cut).gSrclen = State.reset.gSrclen := rfl
@[simp] theorem State.resetWith_tc (s : State) (cut : State) : (s.resetWith cut).tc = State.reset.tc := rfl
@[simp] theorem State.resetWith_mem (s : State) (cut : State) : (s.resetWith cut).mem = cut.mem := rfl
@[simp] theorem State.resetWith_past (s : State) (cut : State) : (s.resetWith cut).past = State.reset.past := rfl
@[simp] theorem State.resetWith_hung (s : State) (cut : State) : (s.resetWith cut).hung = State.reset.hung := rfl
@[simp] theorem State.resetWith_holes (s : State) (cut : State) : (s.resetWith cut).holes = s.holes := rfl
@[simp] theorem State.resetWith_mmioBase (s : State) (cut : State) : (s.resetWith cut).mmioBase = s.mmioBase := rfl
@[simp] theorem State.resetWith_writesLeft (s : State) (cut : State) : (s.resetWith cut).writesLeft = State.reset.writesLeft := rfl
@[simp] theorem State.resetWith_inputs (s : State) (cut : State) : (s.resetWith cut).inputs = s.inputs := rfl
@[simp] theorem State.resetWith_hostData (s : State) (cut : State) : (s.resetWith cut).hostData = s.hostData := rfl
@[simp] theorem State.resetWith_draws (s : State) (cut : State) : (s.resetWith cut).draws = cut.draws := rfl

/-! ### Register reads -/

theorem State.getX_eq (s : State) (r : Reg) : s.getX r = s.x[r] := rfl

@[simp] theorem State.getX_setX_same (s : State) (r : Reg) (v : Word) : (s.setX r v).getX r = v := by
  simp [State.getX, State.setX]

@[simp] theorem State.getX_setX_other (s : State) {r q : Reg} (v : Word) (h : q ≠ r) :
    (s.setX r v).getX q = s.getX q := by
  have h' : (r : Nat) ≠ q := fun e => h (Fin.ext e.symm)
  simp [State.getX, State.setX, Vector.getElem_set_ne _ _ h']

/-- A register file that differs from another in no register is the same. -/
theorem State.x_ext {s t : State} (h : ∀ r, s.getX r = t.getX r) : s.x = t.x := by
  apply Vector.ext
  intro i hi
  exact h ⟨i, hi⟩

@[simp] theorem State.retire_getX (s : State) (r : Reg) : (s.retire).getX r = s.getX r := rfl
@[simp] theorem State.stopRun_getX (s : State) (r : Reg) : (s.stopRun).getX r = s.getX r := rfl
@[simp] theorem State.enterFault_getX (s : State) (c : FaultCode) (info : Word) (r : Reg) : (s.enterFault c info).getX r = s.getX r := rfl
@[simp] theorem State.go_getX (s : State) (r : Reg) : (s.go).getX r = s.getX r := rfl
@[simp] theorem State.hang_getX (s : State) (r : Reg) : (s.hang).getX r = s.getX r := rfl
@[simp] theorem State.openReader_getX (s : State) (ptr rem : Word) (r : Reg) : (s.openReader ptr rem).getX r = s.getX r := rfl
@[simp] theorem State.openWriter_getX (s : State) (ptr rem : Word) (r : Reg) : (s.openWriter ptr rem).getX r = s.getX r := rfl
@[simp] theorem State.writeStatus_getX (s : State) (v : Word) (r : Reg) : (s.writeStatus v).getX r = s.getX r := rfl
@[simp] theorem State.writeEnables_getX (s : State) (v : Word) (r : Reg) : (s.writeEnables v).getX r = s.getX r := rfl
@[simp] theorem State.storeByte_getX (s : State) (byHost : Bool) (a : Word) (b : Byte) (r : Reg) : (s.storeByte byHost a b).getX r = s.getX r := rfl
@[simp] theorem State.drawn_getX (s : State) (r : Reg) : (s.drawn).getX r = s.getX r := rfl
@[simp] theorem State.hostGets_getX (s : State) (v : Word) (r : Reg) : (s.hostGets v).getX r = s.getX r := rfl
@[simp] theorem State.hostGetsAny_getX (s : State) (r : Reg) : (s.hostGetsAny).getX r = s.getX r := rfl

end Sys2Proof.Machine
end

