-- ==== Sys2Proof/Laws/Memory.lean ====
section
/-!
SUPPORT. The laws of memory: a write is seen by a read of the same address and by no other, every
memory operation keeps the canonical form, and two canonical memories that read alike are equal.
-/

namespace Sys2Proof.Machine

theorem Memory.wfFrom_cons {low k : Nat} {v : Byte} {m : Memory} :
    Memory.wfFrom low ((k, v) :: m) = true ↔
      low ≤ k ∧ k < 2 ^ 32 ∧ v ≠ Config.unlistedByte ∧ m.wfFrom (k + 1) = true := by
  simp only [Memory.wfFrom, Bool.and_eq_true, decide_eq_true_eq, and_assoc]

theorem Memory.wfFrom_mono {low low' : Nat} {m : Memory} (h : m.wfFrom low = true) (hl : low' ≤ low) :
    m.wfFrom low' = true := by
  cases m with
  | nil => rfl
  | cons e m =>
    obtain ⟨k, v⟩ := e
    rw [Memory.wfFrom_cons] at h ⊢
    exact ⟨by omega, h.2⟩

/-- Below the first listed address nothing is listed. -/
theorem Memory.read_below {low a : Nat} {m : Memory} (h : m.wfFrom low = true) (ha : a < low) :
    m.read a = Config.unlistedByte := by
  induction m generalizing low with
  | nil => rfl
  | cons e m ih =>
    obtain ⟨k, v⟩ := e
    rw [Memory.wfFrom_cons] at h
    have hk : k ≠ a := by omega
    simp only [Memory.read, hk, if_false]
    exact ih h.2.2.2 (by omega)

/-- A write keeps the canonical form. -/
theorem Memory.write_wfFrom {low a : Nat} {b : Byte} {m : Memory} (h : m.wfFrom low = true)
    (hl : low ≤ a) (ha : a < 2 ^ 32) : (m.write a b).wfFrom low = true := by
  induction m generalizing low with
  | nil =>
    simp only [Memory.write]
    split
    · rfl
    · next hb => exact Memory.wfFrom_cons.2 ⟨hl, ha, hb, rfl⟩
  | cons e m ih =>
    obtain ⟨k, v⟩ := e
    have h' := Memory.wfFrom_cons.1 h
    simp only [Memory.write]
    split
    · split
      · exact h
      · next hlt hb =>
        exact Memory.wfFrom_cons.2 ⟨hl, ha, hb, Memory.wfFrom_cons.2 ⟨by omega, h'.2⟩⟩
    · split
      · next _ heq =>
        split
        · exact Memory.wfFrom_mono h'.2.2.2 (by omega)
        · next hb => exact Memory.wfFrom_cons.2 ⟨hl, ha, hb, heq ▸ h'.2.2.2⟩
      · next hlt hne =>
        exact Memory.wfFrom_cons.2 ⟨h'.1, h'.2.1, h'.2.2.1, ih h'.2.2.2 (by omega)⟩

theorem Memory.write_wf {a : Nat} {b : Byte} {m : Memory} (h : m.wf = true) (ha : a < 2 ^ 32) :
    (m.write a b).wf = true :=
  Memory.write_wfFrom h (Nat.zero_le a) ha

/-- Reading after a write, in a canonical memory. -/
theorem Memory.read_write_from {low a : Nat} {b : Byte} {m : Memory} (h : m.wfFrom low = true)
    (c : Nat) : (m.write a b).read c = if a = c then b else m.read c := by
  induction m generalizing low with
  | nil =>
    simp only [Memory.write]
    split
    · next hb => split <;> simp_all [Memory.read]
    · simp [Memory.read]
  | cons e m ih =>
    obtain ⟨k, v⟩ := e
    have h' := Memory.wfFrom_cons.1 h
    simp only [Memory.write]
    split
    · next hlt =>
      split
      · next hb =>
        by_cases hac : a = c
        · subst hac
          rw [if_pos rfl, hb]
          exact Memory.read_below (low := k) (Memory.wfFrom_cons.2 ⟨le_refl k, h'.2⟩) hlt
        · rw [if_neg hac]
      · simp [Memory.read]
    · split
      · next heq =>
        subst heq
        split
        · next hb =>
          by_cases hac : a = c
          · subst hac
            rw [if_pos rfl, hb]
            exact Memory.read_below h'.2.2.2 (by omega)
          · simp [Memory.read, hac]
        · by_cases hac : a = c <;> simp [Memory.read, hac]
      · next hne =>
        by_cases hkc : k = c
        · subst hkc
          simp [Memory.read, hne]
        · simp only [Memory.read, hkc, if_false]
          exact ih h'.2.2.2

theorem Memory.read_write {a : Nat} {b : Byte} {m : Memory} (h : m.wf = true) (c : Nat) :
    (m.write a b).read c = if a = c then b else m.read c :=
  Memory.read_write_from h c

/-- A canonical memory is what it reads as: equal reads, equal memories. -/
theorem Memory.ext_from {low : Nat} {m n : Memory} (hm : m.wfFrom low = true) (hn : n.wfFrom low = true)
    (h : ∀ a, m.read a = n.read a) : m = n := by
  induction m generalizing n low with
  | nil =>
    cases n with
    | nil => rfl
    | cons e n =>
      obtain ⟨k, v⟩ := e
      have := h k
      simp only [Memory.read, if_true] at this
      exact absurd this.symm (Memory.wfFrom_cons.1 hn).2.2.1
  | cons e m ih =>
    obtain ⟨k, v⟩ := e
    have hm' := Memory.wfFrom_cons.1 hm
    cases n with
    | nil =>
      have := h k
      simp only [Memory.read, if_true] at this
      exact absurd this hm'.2.2.1
    | cons e' n =>
      obtain ⟨k', v'⟩ := e'
      have hn' := Memory.wfFrom_cons.1 hn
      have hkk : k = k' := by
        rcases Nat.lt_trichotomy k k' with hlt | heq | hgt
        · have := h k
          rw [Memory.read_below (low := k') (m := (k', v') :: n)
            (Memory.wfFrom_cons.2 ⟨le_refl k', hn'.2⟩) hlt] at this
          simp only [Memory.read, if_true] at this
          exact absurd this hm'.2.2.1
        · exact heq
        · have := h k'
          rw [Memory.read_below (low := k) (m := (k, v) :: m)
            (Memory.wfFrom_cons.2 ⟨le_refl k, hm'.2⟩) hgt] at this
          simp only [Memory.read, if_true] at this
          exact absurd this.symm hn'.2.2.1
      subst hkk
      have hv : v = v' := by simpa [Memory.read] using h k
      subst hv
      have hrest : m = n := by
        refine ih hm'.2.2.2 hn'.2.2.2 fun a => ?_
        by_cases hka : k = a
        · subst hka
          rw [Memory.read_below hm'.2.2.2 (Nat.lt_succ_self k),
            Memory.read_below hn'.2.2.2 (Nat.lt_succ_self k)]
        · simpa [Memory.read, hka] using h a
      rw [hrest]

theorem Memory.ext_of_read {m n : Memory} (hm : m.wf = true) (hn : n.wf = true)
    (h : ∀ a, m.read a = n.read a) : m = n :=
  Memory.ext_from hm hn h

/-- Placing bytes keeps the canonical form. -/
theorem Memory.place_wf {m : Memory} (h : m.wf = true) (a : Word) (bs : List Byte) :
    (m.place a bs).wf = true := by
  induction bs generalizing m a with
  | nil => exact h
  | cons b bs ih => exact ih (Memory.write_wf h a.isLt) (a + 1)

/-- Memory after reset is canonical. -/
theorem State.reset_mem_wf : State.reset.mem.wf = true := rfl

end Sys2Proof.Machine
end

