-- ==== Sys2Proof/Laws/Ops.lean ====
section
/-!
SUPPORT. What the shared operations can do, said once each: the results of primitives and their
composition, the end of a command, memory accesses, loops.
-/

namespace Sys2Proof.Machine

/-! ### Results and their composition -/

section results
variable {α β : Type}

@[simp] theorem Res.bind_ok (a : α) (s : State) (f : α → State → Res β) :
    (Res.ok a s).bind f = f a s := rfl

@[simp] theorem Res.bind_raise (c : FaultCode) (info : Word) (s : State) (f : α → State → Res β) :
    (Res.raise c info s : Res α).bind f = .raise c info s := rfl

@[simp] theorem Res.bind_stuck (s : State) (f : α → State → Res β) :
    (Res.stuck s : Res α).bind f = .stuck s := rfl

/-- A composition answers a value exactly when both parts do. -/
theorem Res.bind_eq_ok {r : Res α} {f : α → State → Res β} {b : β} {u : State} :
    r.bind f = .ok b u ↔ ∃ a t, r = .ok a t ∧ f a t = .ok b u := by
  cases r <;> simp

/-- A composition raises a fault exactly when the first part does or it completes and the second does. -/
theorem Res.bind_eq_raise {r : Res α} {f : α → State → Res β} {c : FaultCode} {info : Word} {u : State} :
    r.bind f = .raise c info u ↔
      r = .raise c info u ∨ ∃ a t, r = .ok a t ∧ f a t = .raise c info u := by
  cases r <;> simp

/-- A composition is stuck exactly when the first part is or it completes and the second is. -/
theorem Res.bind_eq_stuck {r : Res α} {f : α → State → Res β} {u : State} :
    r.bind f = .stuck u ↔ r = .stuck u ∨ ∃ a t, r = .ok a t ∧ f a t = .stuck u := by
  cases r <;> simp

/-- Three primitives in a row associate. -/
theorem Res.bind_assoc {γ : Type} (r : Res α) (f : α → State → Res β) (g : β → State → Res γ) :
    (r.bind f).bind g = r.bind fun a s => (f a s).bind g := by
  cases r <;> rfl

/-- The state a result leaves, however it ended. -/
def Res.final : Res α → State
  | .ok _ s => s
  | .raise _ _ s => s
  | .stuck s => s

@[simp] theorem Res.final_ok (a : α) (s : State) : (Res.ok a s).final = s := rfl
@[simp] theorem Res.final_raise (c : FaultCode) (i : Word) (s : State) :
    (Res.raise c i s : Res α).final = s := rfl
@[simp] theorem Res.final_stuck (s : State) : (Res.stuck s : Res α).final = s := rfl

/-- A relation that every primitive keeps is kept by their composition. -/
theorem Res.final_bind {R : State → State → Prop} (trans : ∀ {a b c}, R a b → R b c → R a c)
    {s : State} {r : Res α} {f : α → State → Res β} (hr : R s r.final)
    (hf : ∀ a t, r = .ok a t → R t (f a t).final) : R s (r.bind f).final := by
  cases r with
  | ok a t => exact trans hr (hf a t rfl)
  | raise c i t => exact hr
  | stuck t => exact hr

/-- What holds of a state and is kept by both parts of a composition holds of the state it leaves. -/
theorem Res.final_bind_of {P : State → Prop} {r : Res α} {f : α → State → Res β} (hr : P r.final)
    (hf : ∀ a t, r = .ok a t → P t → P (f a t).final) : P (r.bind f).final := by
  cases r with
  | ok a t => exact hf a t rfl hr
  | raise c i t => exact hr
  | stuck t => exact hr

end results

/-! ### The end of a command -/

@[simp] theorem conclude_ok (s : State) : conclude (.ok () s) = .next s.retire := rfl
@[simp] theorem conclude_raise (c : FaultCode) (i : Word) (s : State) :
    conclude (.raise c i s) = .next (s.enterFault c i) := rfl
@[simp] theorem conclude_stuck (s : State) : conclude (.stuck s) = .next s.hang := rfl

/-- Everything the end of a command can do. -/
theorem conclude_cases {r : Res Unit} {t : State} (h : conclude r = .next t) :
    (∃ u, r = .ok () u ∧ t = u.retire) ∨ (∃ c i u, r = .raise c i u ∧ t = u.enterFault c i) ∨
      (∃ u, r = .stuck u ∧ t = u.hang) := by
  cases r <;> simp_all [conclude]

/-- A command that ends through `conclude` answers a next state. -/
theorem conclude_next (r : Res Unit) : ∃ t, conclude r = .next t := by
  cases r <;> exact ⟨_, rfl⟩

/-! ### Loops -/

@[simp] theorem forRange_zero (body : Nat → State → Res Unit) (i : Nat) (s : State) :
    forRange body 0 i s = .ok () s := rfl

theorem forRange_succ (body : Nat → State → Res Unit) (n i : Nat) (s : State) :
    forRange body (n + 1) i s = (body i s).bind fun _ t => forRange body n (i + 1) t := rfl

/-- What the body keeps, the loop keeps, however it ends. -/
theorem forRange_final {P : State → Prop} {body : Nat → State → Res Unit}
    (hb : ∀ i s, P s → P (body i s).final) (n i : Nat) (s : State) (h : P s) :
    P (forRange body n i s).final := by
  induction n generalizing i s with
  | zero => exact h
  | succ n ih =>
    rw [forRange_succ]
    refine Res.final_bind_of (hb i s h) fun a t ht hp => ih (i + 1) t hp

/-- A loop invariant indexed by the iteration: if the body completes from every state with `P i` and
leaves `P (i + 1)`, the loop completes and leaves `P (start + count)`. -/
theorem forRange_ok {P : Nat → State → Prop} {body : Nat → State → Res Unit} {last : Nat}
    (hb : ∀ i s, i < last → P i s → ∃ t, body i s = .ok () t ∧ P (i + 1) t)
    (n i : Nat) (s : State) (hl : i + n ≤ last) (h : P i s) :
    ∃ t, forRange body n i s = .ok () t ∧ P (i + n) t := by
  induction n generalizing i s with
  | zero => exact ⟨s, rfl, h⟩
  | succ n ih =>
    obtain ⟨t, ht, hp⟩ := hb i s (by omega) h
    obtain ⟨u, hu, hq⟩ := ih (i + 1) t (by omega) hp
    refine ⟨u, ?_, ?_⟩
    · rw [forRange_succ, ht]; exact hu
    · have : i + (n + 1) = i + 1 + n := by omega
      rw [this]; exact hq

/-! ### Memory accesses -/

/-- Two states alike but for the count of draws. -/
def SameButDraws (s t : State) : Prop := t = { s with draws := t.draws }

theorem SameButDraws.rfl {s : State} : SameButDraws s s := by simp [SameButDraws]

theorem SameButDraws.trans {s t u : State} (h : SameButDraws s t) (k : SameButDraws t u) :
    SameButDraws s u := by
  unfold SameButDraws at *
  rw [k, h]

/-- Reading a byte makes at most a draw. -/
theorem State.loadByte_same (s : State) (a : Word) : SameButDraws s (s.loadByte a).2 := by
  unfold State.loadByte; split <;> simp [SameButDraws, State.drawn]

/-- A byte the host has not written during the run is no race. -/
theorem State.loadByte_eq {s : State} {a : Word} (h : hostValues a (s.mem.read a.toNat) s.past = []) :
    s.loadByte a = (s.mem.read a.toNat, s) := by
  unfold State.loadByte; rw [h]

/-- A read makes draws only, however it ends. -/
theorem memRead_same (a : Word) (n : Nat) (s : State) : SameButDraws s (memRead a n s).final := by
  induction n generalizing a s with
  | zero => exact SameButDraws.rfl
  | succ n ih =>
    unfold memRead
    split
    · exact Res.final_bind (R := SameButDraws) SameButDraws.trans ((s.loadByte_same a).trans (ih _ _))
        fun _ _ _ => SameButDraws.rfl
    · exact SameButDraws.rfl

/-- A value of n bytes is below 256^n. -/
theorem memRead_lt {n : Nat} {a : Word} {v : Nat} {s t : State} (h : memRead a n s = .ok v t) :
    v < 256 ^ n := by
  induction n generalizing a v s t with
  | zero => simp only [memRead, Res.ok.injEq] at h; omega
  | succ n ih =>
    unfold memRead at h
    split at h
    · obtain ⟨w, u, hw, hv⟩ := Res.bind_eq_ok.1 h
      simp only [Res.ok.injEq] at hv
      have h1 := ih hw
      have h2 := (s.loadByte a).1.isLt
      rw [Nat.pow_succ]
      omega
    · simp at h

/-- A read never raises a fault. -/
theorem memRead_ne_raise (a : Word) (n : Nat) (s : State) (c : FaultCode) (i : Word) (t : State) :
    memRead a n s ≠ .raise c i t := by
  induction n generalizing a s with
  | zero => simp [memRead]
  | succ n ih =>
    unfold memRead
    split
    · intro h
      rcases Res.bind_eq_raise.1 h with h | ⟨v, u, -, h⟩
      · exact ih _ _ h
      · simp at h
    · simp

/-- Everything storing one byte can do. -/
theorem State.writeByte_eq_some {s t : State} {a : Word} {b : Byte} (h : s.writeByte a b = some t) :
    s.admits a = true ∧ s.writesLeft ≠ some 0 ∧
      t = { s.storeByte false a b with writesLeft := s.writesLeft.map (· - 1) } := by
  unfold State.writeByte at h
  split at h
  · next hc => simp_all
  · simp at h

/-- With no reset pending and the byte admitted, storing one byte completes. -/
theorem State.writeByte_ok {s : State} {a : Word} (ha : s.admits a = true) (hw : s.writesLeft = none)
    (b : Byte) : s.writeByte a b = some (s.storeByte false a b) := by
  unfold State.writeByte State.storeByte
  simp [ha, hw]

/-- Two states alike but for memory, the record of its writes and the count of writes before a reset. -/
def SameButMem (s t : State) : Prop := t = { s with mem := t.mem, past := t.past, writesLeft := t.writesLeft }

theorem SameButMem.rfl {s : State} : SameButMem s s := by simp [SameButMem]

theorem SameButMem.trans {s t u : State} (h : SameButMem s t) (k : SameButMem t u) : SameButMem s u := by
  unfold SameButMem at *
  rw [k, h]

theorem State.writeByte_same {s t : State} {a : Word} {b : Byte} (h : s.writeByte a b = some t) :
    SameButMem s t := by
  rw [(State.writeByte_eq_some h).2.2]; simp [SameButMem, State.storeByte]

/-- A store changes memory only, however it ends. -/
theorem memWrite_same (n : Nat) (a : Word) (v : Nat) (s : State) :
    SameButMem s (memWrite n a v s).final := by
  induction n generalizing a v s with
  | zero => exact SameButMem.rfl
  | succ n ih =>
    unfold memWrite
    split
    · exact SameButMem.rfl
    · next t ht => exact (State.writeByte_same ht).trans (ih _ _ _)

/-- A store keeps memory canonical, however it ends. -/
theorem memWrite_wf (n : Nat) (a : Word) (v : Nat) (s : State) (h : s.mem.wf = true) :
    (memWrite n a v s).final.mem.wf = true := by
  induction n generalizing a v s with
  | zero => exact h
  | succ n ih =>
    unfold memWrite
    split
    · exact h
    · next t ht =>
      refine ih _ _ _ ?_
      rw [(State.writeByte_eq_some ht).2.2]
      exact Memory.write_wf h a.isLt

/-- A store with no reset pending leaves none pending. -/
theorem memWrite_writesLeft (n : Nat) (a : Word) (v : Nat) (s : State) (h : s.writesLeft = none) :
    (memWrite n a v s).final.writesLeft = none := by
  induction n generalizing a v s with
  | zero => exact h
  | succ n ih =>
    unfold memWrite
    split
    · exact h
    · next t ht =>
      refine ih _ _ _ ?_
      rw [(State.writeByte_eq_some ht).2.2]
      simp [h]

/-- A store never raises a fault. -/
theorem memWrite_ne_raise (n : Nat) (a : Word) (v : Nat) (s : State) (c : FaultCode) (i : Word)
    (t : State) : memWrite n a v s ≠ .raise c i t := by
  induction n generalizing a v s with
  | zero => simp [memWrite]
  | succ n ih =>
    unfold memWrite
    split
    · simp
    · exact ih _ _ _

/-- The memory after the n low bytes of v are stored from a up. -/
def Memory.writeLE : Nat → Memory → Word → Nat → Memory
  | 0, m, _, _ => m
  | n + 1, m, a, v => Memory.writeLE n (m.write a.toNat (BitVec.ofNat 8 v)) (a + 1) (v / 256)

/-- The record of the run's writes after the n low bytes of v are stored from a up. -/
def Memory.pastLE : Nat → Memory → List PastWrite → Word → Nat → List PastWrite
  | 0, _, p, _, _ => p
  | n + 1, m, p, a, v =>
    Memory.pastLE n (m.write a.toNat (BitVec.ofNat 8 v)) (⟨a, m.read a.toNat, false⟩ :: p) (a + 1) (v / 256)

/-- Where nothing is excluded and no reset is pending, a store completes. -/
theorem memWrite_ok {s : State} (hh : s.holes = []) (hw : s.writesLeft = none) (n : Nat) (a : Word)
    (v : Nat) : memWrite n a v s =
      .ok () { s with mem := Memory.writeLE n s.mem a v, past := Memory.pastLE n s.mem s.past a v } := by
  induction n generalizing a v s with
  | zero => rfl
  | succ n ih =>
    have ha : s.admits a = true := by simp [State.admits, hh]
    rw [memWrite, State.writeByte_ok ha hw]
    exact ih (s := s.storeByte false a (BitVec.ofNat 8 v)) hh hw (a + 1) (v / 256)

theorem Memory.writeLE_wf {m : Memory} (h : m.wf = true) (n : Nat) (a : Word) (v : Nat) :
    (Memory.writeLE n m a v).wf = true := by
  induction n generalizing m a v with
  | zero => exact h
  | succ n ih => exact ih (Memory.write_wf h a.isLt) _ _

end Sys2Proof.Machine
end

