-- ==== Sys2Proof/Laws/PerInstr.lean ====
section
/-!
SUPPORT. Statements about every command, made command by command: the word of each lies in its row of
spec/opcode_table.json (30_encoding.md R89: a command's match under its mask).
-/

namespace Sys2Proof.Laws

/-- The row (mask, match) of a command in spec/opcode_table.json (30_encoding.md R89). -/
def tableRow : Instr → Word × Word
  | .nop => (0xFFFFFFFF, 0x00000000)
  | .stop => (0xFFFFFFFF, 0x01000000)
  | .li _ _ => (0xFF0F0000, 0x02000000)
  | .lui _ _ => (0xFF0F0000, 0x03000000)
  | .csrr _ _ => (0xFF0FFF00, 0x04000000)
  | .csrw _ _ => (0xFFF0FF00, 0x05000000)
  | .brInit _ _ => (0xFF00FFFF, 0x10000000)
  | .brPeek _ _ => (0xFF0FFFC0, 0x11000000)
  | .brGet _ _ => (0xFF0FFFC0, 0x12000000)
  | .brSkip _ => (0xFFFFFFC0, 0x13000000)
  | .bwInit _ _ => (0xFF00FFFF, 0x18000000)
  | .bwPut _ _ => (0xFFF0FFC0, 0x19000000)
  | .bwFin _ => (0xFF0FFFFF, 0x1A000000)
  | .tcBuild => (0xFFFFFFFF, 0x20000000)
  | .tcDith _ _ => (0xFF00FFFF, 0x21000000)
  | .tcRlk _ _ => (0xFF00FFFF, 0x22000000)
  | .tcCtr _ _ => (0xFF00FFFF, 0x23000000)
  | .tcBd _ _ => (0xFF00FFFF, 0x24000000)
  | .dcDph _ _ => (0xFF0FFFFE, 0x30000000)
  | .dcEph _ _ => (0xFF0FFFFE, 0x31000000)
  | .dcDrow _ _ => (0xFF00FFFF, 0x32000000)
  | .dcErow _ _ => (0xFF00FFFF, 0x33000000)
  | .dcDec _ _ => (0xFF00FFFF, 0x34000000)
  | .dcEnc _ _ => (0xFF00FFFF, 0x35000000)

/-- A word under a mask, field by field: the opcode is kept, each other field is zero under its mask. -/
theorem wordOf_and (f : Fields) (am bm : BitVec 4) (im : BitVec 16)
    (ha : BitVec.ofFin (w := 4) f.a &&& am = 0#4) (hb : BitVec.ofFin (w := 4) f.b &&& bm = 0#4)
    (hi : f.imm &&& im = 0#16) :
    wordOf f &&& (0xFF#8 ++ am ++ bm ++ im : BitVec (8 + 4 + 4 + 16)) =
      (f.op ++ 0#4 ++ 0#4 ++ 0#16 : BitVec (8 + 4 + 4 + 16)) := by
  have ho : f.op &&& 0xFF#8 = f.op := BitVec.and_allOnes
  unfold wordOf
  rw [BitVec.and_append, BitVec.and_append, BitVec.and_append, ho, ha, hb, hi]

theorem csrNum_mask (c : Csr) : (csrNum c).setWidth 16 &&& 0xFF00#16 = 0#16 := by
  cases c <;> rfl

theorem count_mask : ∀ n : BitVec 6, n.setWidth 16 &&& 0xFFC0#16 = 0#16 := by decide

theorem phase_mask : ∀ j : Phase, BitVec.ofNat 16 j.val &&& 0xFFFE#16 = 0#16 := by decide

namespace OpcodeTable

/-- The word of the command has the bits its row of the opcode table fixes (30_encoding.md R89). -/
def Statement (i : Instr) : Prop := encode i &&& (tableRow i).1 = (tableRow i).2

theorem nop : Statement (.nop) := by
  refine Eq.trans (wordOf_and (encodeFields (.nop)) 0xF#4 0xF#4 0xFFFF#16 ?_ ?_ ?_) ?_ <;>
    (simp only [encodeFields, tableRow]; decide)

theorem stop : Statement (.stop) := by
  refine Eq.trans (wordOf_and (encodeFields (.stop)) 0xF#4 0xF#4 0xFFFF#16 ?_ ?_ ?_) ?_ <;>
    (simp only [encodeFields, tableRow]; decide)

theorem li (rd : Reg) (imm : BitVec 16) : Statement (.li rd imm) := by
  refine Eq.trans (wordOf_and (encodeFields (.li rd imm)) 0#4 0xF#4 0x0000#16 BitVec.and_zero ?_ BitVec.and_zero) ?_ <;>
    (simp only [encodeFields, tableRow]; decide)

theorem lui (rd : Reg) (imm : BitVec 16) : Statement (.lui rd imm) := by
  refine Eq.trans (wordOf_and (encodeFields (.lui rd imm)) 0#4 0xF#4 0x0000#16 BitVec.and_zero ?_ BitVec.and_zero) ?_ <;>
    (simp only [encodeFields, tableRow]; decide)

theorem csrr (rd : Reg) (c : Csr) : Statement (.csrr rd c) := by
  refine Eq.trans (wordOf_and (encodeFields (.csrr rd c)) 0#4 0xF#4 0xFF00#16 BitVec.and_zero ?_ (csrNum_mask _)) ?_ <;>
    (simp only [encodeFields, tableRow]; decide)

theorem csrw (c : Csr) (rs : Reg) : Statement (.csrw c rs) := by
  refine Eq.trans (wordOf_and (encodeFields (.csrw c rs)) 0xF#4 0#4 0xFF00#16 ?_ BitVec.and_zero (csrNum_mask _)) ?_ <;>
    (simp only [encodeFields, tableRow]; decide)

theorem brInit (ra rl : Reg) : Statement (.brInit ra rl) := by
  refine Eq.trans (wordOf_and (encodeFields (.brInit ra rl)) 0#4 0#4 0xFFFF#16 BitVec.and_zero BitVec.and_zero ?_) ?_ <;>
    (simp only [encodeFields, tableRow]; decide)

theorem brPeek (rd : Reg) (n : BitVec 6) : Statement (.brPeek rd n) := by
  refine Eq.trans (wordOf_and (encodeFields (.brPeek rd n)) 0#4 0xF#4 0xFFC0#16 BitVec.and_zero ?_ (count_mask _)) ?_ <;>
    (simp only [encodeFields, tableRow]; decide)

theorem brGet (rd : Reg) (n : BitVec 6) : Statement (.brGet rd n) := by
  refine Eq.trans (wordOf_and (encodeFields (.brGet rd n)) 0#4 0xF#4 0xFFC0#16 BitVec.and_zero ?_ (count_mask _)) ?_ <;>
    (simp only [encodeFields, tableRow]; decide)

theorem brSkip (n : BitVec 6) : Statement (.brSkip n) := by
  refine Eq.trans (wordOf_and (encodeFields (.brSkip n)) 0xF#4 0xF#4 0xFFC0#16 ?_ ?_ (count_mask _)) ?_ <;>
    (simp only [encodeFields, tableRow]; decide)

theorem bwInit (ra rl : Reg) : Statement (.bwInit ra rl) := by
  refine Eq.trans (wordOf_and (encodeFields (.bwInit ra rl)) 0#4 0#4 0xFFFF#16 BitVec.and_zero BitVec.and_zero ?_) ?_ <;>
    (simp only [encodeFields, tableRow]; decide)

theorem bwPut (rs : Reg) (n : BitVec 6) : Statement (.bwPut rs n) := by
  refine Eq.trans (wordOf_and (encodeFields (.bwPut rs n)) 0xF#4 0#4 0xFFC0#16 ?_ BitVec.and_zero (count_mask _)) ?_ <;>
    (simp only [encodeFields, tableRow]; decide)

theorem bwFin (rd : Reg) : Statement (.bwFin rd) := by
  refine Eq.trans (wordOf_and (encodeFields (.bwFin rd)) 0#4 0xF#4 0xFFFF#16 BitVec.and_zero ?_ ?_) ?_ <;>
    (simp only [encodeFields, tableRow]; decide)

theorem tcBuild : Statement (.tcBuild) := by
  refine Eq.trans (wordOf_and (encodeFields (.tcBuild)) 0xF#4 0xF#4 0xFFFF#16 ?_ ?_ ?_) ?_ <;>
    (simp only [encodeFields, tableRow]; decide)

theorem tcDith (rd rs : Reg) : Statement (.tcDith rd rs) := by
  refine Eq.trans (wordOf_and (encodeFields (.tcDith rd rs)) 0#4 0#4 0xFFFF#16 BitVec.and_zero BitVec.and_zero ?_) ?_ <;>
    (simp only [encodeFields, tableRow]; decide)

theorem tcRlk (rd rs : Reg) : Statement (.tcRlk rd rs) := by
  refine Eq.trans (wordOf_and (encodeFields (.tcRlk rd rs)) 0#4 0#4 0xFFFF#16 BitVec.and_zero BitVec.and_zero ?_) ?_ <;>
    (simp only [encodeFields, tableRow]; decide)

theorem tcCtr (rd rs : Reg) : Statement (.tcCtr rd rs) := by
  refine Eq.trans (wordOf_and (encodeFields (.tcCtr rd rs)) 0#4 0#4 0xFFFF#16 BitVec.and_zero BitVec.and_zero ?_) ?_ <;>
    (simp only [encodeFields, tableRow]; decide)

theorem tcBd (rd rs : Reg) : Statement (.tcBd rd rs) := by
  refine Eq.trans (wordOf_and (encodeFields (.tcBd rd rs)) 0#4 0#4 0xFFFF#16 BitVec.and_zero BitVec.and_zero ?_) ?_ <;>
    (simp only [encodeFields, tableRow]; decide)

theorem dcDph (ra : Reg) (j : Phase) : Statement (.dcDph ra j) := by
  refine Eq.trans (wordOf_and (encodeFields (.dcDph ra j)) 0#4 0xF#4 0xFFFE#16 BitVec.and_zero ?_ (phase_mask _)) ?_ <;>
    (simp only [encodeFields, tableRow]; decide)

theorem dcEph (ra : Reg) (j : Phase) : Statement (.dcEph ra j) := by
  refine Eq.trans (wordOf_and (encodeFields (.dcEph ra j)) 0#4 0xF#4 0xFFFE#16 BitVec.and_zero ?_ (phase_mask _)) ?_ <;>
    (simp only [encodeFields, tableRow]; decide)

theorem dcDrow (ra rb : Reg) : Statement (.dcDrow ra rb) := by
  refine Eq.trans (wordOf_and (encodeFields (.dcDrow ra rb)) 0#4 0#4 0xFFFF#16 BitVec.and_zero BitVec.and_zero ?_) ?_ <;>
    (simp only [encodeFields, tableRow]; decide)

theorem dcErow (ra rb : Reg) : Statement (.dcErow ra rb) := by
  refine Eq.trans (wordOf_and (encodeFields (.dcErow ra rb)) 0#4 0#4 0xFFFF#16 BitVec.and_zero BitVec.and_zero ?_) ?_ <;>
    (simp only [encodeFields, tableRow]; decide)

theorem dcDec (ra rb : Reg) : Statement (.dcDec ra rb) := by
  refine Eq.trans (wordOf_and (encodeFields (.dcDec ra rb)) 0#4 0#4 0xFFFF#16 BitVec.and_zero BitVec.and_zero ?_) ?_ <;>
    (simp only [encodeFields, tableRow]; decide)

theorem dcEnc (ra rb : Reg) : Statement (.dcEnc ra rb) := by
  refine Eq.trans (wordOf_and (encodeFields (.dcEnc ra rb)) 0#4 0#4 0xFFFF#16 BitVec.and_zero BitVec.and_zero ?_) ?_ <;>
    (simp only [encodeFields, tableRow]; decide)

end OpcodeTable

end Sys2Proof.Laws
end

