-- ==== Sys2Proof/Laws/Ranges.lean ====
section
/-!
SUPPORT. Ranges of memory: where every byte is admitted, when two ranges are apart, and what the accesses of
a range answer.
-/

namespace Sys2Proof.Machine

/-- Where the platform leaves out nothing, every range is admitted. -/
theorem admitted_of_no_holes {s : State} (h : s.holes = []) (a : Word) (n : Nat) : Admitted s a n :=
  fun c _ => by simp [State.admits, h]

/-- A range below another is apart from it. -/
theorem apart_of_below {a b : Word} {n m : Nat} (h : a.toNat + n ≤ b.toNat) (hb : b.toNat + m ≤ 2 ^ 32) :
    Apart a n b m := by
  rintro c ⟨k, hk, rfl⟩ ⟨l, hl, hc⟩
  have := congrArg BitVec.toNat hc
  simp only [BitVec.toNat_add, BitVec.toNat_ofNat] at this
  omega

/-- Ranges are apart whichever is named first. -/
theorem Apart.symm {a b : Word} {n m : Nat} (h : Apart a n b m) : Apart b m a n :=
  fun c hb ha => h c ha hb

/-- The first byte of a range, and the rest of it. -/
theorem inRange_succ {a : Word} {n : Nat} {c : Word} :
    InRange a (n + 1) c ↔ c = a ∨ InRange (a + 1) n c := by
  constructor
  · rintro ⟨k, hk, rfl⟩
    cases k with
    | zero => left; simp
    | succ k =>
      refine Or.inr ⟨k, by omega, ?_⟩
      rw [BitVec.add_assoc, show (1 : Word) + BitVec.ofNat 32 k = BitVec.ofNat 32 (k + 1) by
        rw [Nat.add_comm, BitVec.ofNat_add]; rfl]
  · rintro (rfl | ⟨k, hk, rfl⟩)
    · exact ⟨0, by omega, by simp⟩
    · refine ⟨k + 1, by omega, ?_⟩
      rw [BitVec.add_assoc, show (1 : Word) + BitVec.ofNat 32 k = BitVec.ofNat 32 (k + 1) by
        rw [Nat.add_comm, BitVec.ofNat_add]; rfl]

/-- Where the host has written nothing during the run, no byte is raced. -/
theorem hostValues_eq_nil {a : Word} {now : Byte} {ws : List PastWrite}
    (h : ∀ w ∈ ws, w.byHost = true → w.addr ≠ a) : hostValues a now ws = [] := by
  induction ws generalizing now with
  | nil => rfl
  | cons w ws ih =>
    have hw := h w (by simp)
    have hs : ∀ v ∈ ws, v.byHost = true → v.addr ≠ a := fun v hv => h v (by simp [hv])
    unfold hostValues
    split
    · next he =>
      split
      · next hb => exact absurd he (hw hb)
      · exact ih hs
    · exact ih hs

/-- Where the platform leaves out nothing and nothing has been written since GO, every range is settled. -/
theorem settled_of_no_holes {s : State} (h : s.holes = []) (hp : s.past = []) (a : Word) (n : Nat) :
    Settled s a n :=
  fun c _ => ⟨by simp [State.admits, h], fun w hw => by simp [hp] at hw⟩

/-- A read of a settled range answers its little-endian number and draws nothing (20_memory.md R61, R63). -/
theorem memRead_of_settled {s : State} (n : Nat) (a : Word) (h : Settled s a n) :
    memRead a n s = .ok (s.leValue n a) s := by
  induction n generalizing a with
  | zero => rfl
  | succ n ih =>
    have h0 := h a (inRange_succ.2 (.inl rfl))
    have h1 : Settled s (a + 1) n := fun c hc => h c (inRange_succ.2 (.inr hc))
    rw [memRead, State.loadByte_eq (hostValues_eq_nil h0.2), ih (a + 1) h1]
    simp only [h0.1, if_true, Res.bind_ok]
    rfl

/-- A fetch at a settled CP answers the word there and draws nothing (40_control.md R100). -/
theorem fetch_of_settled {s : State} (h : Settled s s.cp 4) :
    s.fetch = .ok (BitVec.ofNat 32 (s.leValue 4 s.cp)) s := by
  rw [State.fetch, memRead_of_settled 4 s.cp h]; rfl

end Sys2Proof.Machine
end

