-- ==== Sys2Proof/Laws/Units.lean ====
section
/-!
SUPPORT. What the primitives of the four units can change, however they end, and the invariants they
keep: said once for the reader, the writer, the phase, row and image decoders and encoders.
-/

namespace Sys2Proof.Machine

/-! ### The three footprints -/

/-- Alike but for the reader and the count of draws. -/
def SameButReader (s t : State) : Prop := t = { s with br := t.br, draws := t.draws }

/-- Alike but for what the decoder writes: the reader, RNG, memory with the record of its writes, the count of
writes before a reset, and the count of draws. -/
def SameButDecode (s t : State) : Prop :=
  t = { s with br := t.br, rng := t.rng, mem := t.mem, past := t.past, writesLeft := t.writesLeft, draws := t.draws }

/-- Alike but for what the encoder writes: the writer, memory with the record of its writes, the count of writes
before a reset, and the count of draws. -/
def SameButEncode (s t : State) : Prop :=
  t = { s with bw := t.bw, mem := t.mem, past := t.past, writesLeft := t.writesLeft, draws := t.draws }

theorem SameButReader.rfl {s : State} : SameButReader s s := by simp [SameButReader]
theorem SameButDecode.rfl {s : State} : SameButDecode s s := by simp [SameButDecode]
theorem SameButEncode.rfl {s : State} : SameButEncode s s := by simp [SameButEncode]

theorem SameButReader.trans {s t u : State} (h : SameButReader s t) (k : SameButReader t u) :
    SameButReader s u := by
  unfold SameButReader at *; rw [k, h]

theorem SameButDecode.trans {s t u : State} (h : SameButDecode s t) (k : SameButDecode t u) :
    SameButDecode s u := by
  unfold SameButDecode at *; rw [k, h]

theorem SameButEncode.trans {s t u : State} (h : SameButEncode s t) (k : SameButEncode t u) :
    SameButEncode s u := by
  unfold SameButEncode at *; rw [k, h]

theorem SameButReader.decode {s t : State} (h : SameButReader s t) : SameButDecode s t := by
  unfold SameButReader at h; unfold SameButDecode; rw [h]

theorem SameButMem.decode {s t : State} (h : SameButMem s t) : SameButDecode s t := by
  unfold SameButMem at h; unfold SameButDecode; rw [h]

theorem SameButDraws.reader {s t : State} (h : SameButDraws s t) : SameButReader s t := by
  unfold SameButDraws at h; unfold SameButReader; rw [h]

theorem SameButDraws.encode {s t : State} (h : SameButDraws s t) : SameButEncode s t := by
  unfold SameButDraws at h; unfold SameButEncode; rw [h]

theorem SameButMem.encode {s t : State} (h : SameButMem s t) : SameButEncode s t := by
  unfold SameButMem at h; unfold SameButEncode; rw [h]

/-! ### The bit reader -/

theorem refill_same (s : State) : SameButReader s (refill s).final := by
  unfold refill
  split
  · exact SameButReader.rfl
  · refine Res.final_bind (R := SameButReader) SameButReader.trans ?_ fun w t _ => ?_
    · exact (memRead_same _ _ s).reader
    · simp [SameButReader]

theorem peek_same (n : Nat) (s : State) : SameButReader s (peek n s).final := by
  unfold peek
  refine Res.final_bind (R := SameButReader) SameButReader.trans ?_ fun _ t _ => SameButReader.rfl
  split
  · exact refill_same s
  · exact SameButReader.rfl

theorem consume_same (n : Nat) (s : State) : SameButReader s (consume n s).final := by
  unfold consume
  split
  · exact SameButReader.rfl
  · simp [SameButReader]

theorem getBits_same (n : Nat) (s : State) : SameButReader s (getBits n s).final := by
  unfold getBits
  split
  · exact SameButReader.rfl
  · refine Res.final_bind (R := SameButReader) SameButReader.trans (peek_same n s) fun v t _ => ?_
    exact Res.final_bind (R := SameButReader) SameButReader.trans (consume_same n t) fun _ u _ => SameButReader.rfl

/-- The reader's invariant (10_state.md R44). -/
def ReaderOk (r : BitReader) : Prop := r.buf.toNat < 2 ^ r.cnt.toNat

theorem refilled_ok {r : BitReader} {w : Nat} (h : ReaderOk r) (hc : r.cnt.toNat < 32) (hw : w < 2 ^ 32) :
    ReaderOk (refilled r w) := by
  have hcnt : (r.cnt + 32#6).toNat = r.cnt.toNat + 32 := by
    rw [BitVec.toNat_add, Nat.mod_eq_of_lt]
    · rfl
    · simp; omega
  have hw64 : (BitVec.ofNat 64 w).toNat = w := by
    rw [BitVec.toNat_ofNat]; exact Nat.mod_eq_of_lt (by omega)
  have hlt : w <<< r.cnt.toNat < 2 ^ (r.cnt.toNat + 32) := by
    rw [Nat.shiftLeft_eq, Nat.add_comm, Nat.pow_add]
    exact Nat.mul_lt_mul_of_pos_right hw (Nat.two_pow_pos _)
  have h64 : 2 ^ (r.cnt.toNat + 32) ≤ 2 ^ 64 := Nat.pow_le_pow_right (by decide) (by omega)
  have hor : r.buf.toNat ||| w <<< r.cnt.toNat < 2 ^ (r.cnt.toNat + 32) :=
    Nat.or_lt_two_pow (lt_of_lt_of_le h (Nat.pow_le_pow_right (by decide) (by omega))) hlt
  unfold ReaderOk refilled
  show (r.buf ||| BitVec.ofNat 64 w <<< r.cnt.toNat).toNat < 2 ^ (r.cnt + 32#6).toNat
  rw [hcnt, BitVec.toNat_or, BitVec.toNat_shiftLeft, hw64, Nat.mod_eq_of_lt (lt_of_lt_of_le hlt h64)]
  exact hor

/-- A refill, made below 32 bits, keeps the reader's invariant, however it ends (42_bit_reader.md R146). -/
theorem refill_ok {s : State} (h : ReaderOk s.br) (hc : s.br.cnt.toNat < 32) :
    ReaderOk (refill s).final.br := by
  unfold refill
  split
  · exact h
  · have hs := memRead_same s.br.ptr 4 s
    cases hr : memRead s.br.ptr 4 s with
    | ok w t =>
      rw [hr] at hs
      have hb : t.br = s.br := by rw [show t = { s with draws := t.draws } from hs]
      show ReaderOk (refilled t.br w)
      rw [hb]
      exact refilled_ok h hc (memRead_lt hr)
    | raise c i t => exact absurd hr (memRead_ne_raise _ _ _ _ _ _)
    | stuck t =>
      rw [hr] at hs
      have hb : t.br = s.br := by rw [show t = { s with draws := t.draws } from hs]
      show ReaderOk t.br
      rw [hb]; exact h

theorem peek_ok {n : Nat} {s : State} (hn : n ≤ 32) (h : ReaderOk s.br) : ReaderOk (peek n s).final.br := by
  unfold peek
  refine Res.final_bind_of (P := fun t => ReaderOk t.br) ?_ fun _ t _ ht => ht
  split
  · next hc => exact refill_ok h (by omega)
  · exact h

theorem consume_ok {n : Nat} {s : State} (hn : n ≤ 32) (h : ReaderOk s.br) :
    ReaderOk (consume n s).final.br := by
  unfold consume
  split
  · exact h
  · next hc =>
    have h6 : (BitVec.ofNat 6 n).toNat = n := by
      rw [BitVec.toNat_ofNat]; exact Nat.mod_eq_of_lt (by omega)
    have hle : BitVec.ofNat 6 n ≤ s.br.cnt := by rw [BitVec.le_def, h6]; omega
    have hpow : 2 ^ (s.br.cnt.toNat - n) * 2 ^ n = 2 ^ s.br.cnt.toNat := by
      rw [← Nat.pow_add]; congr 1; omega
    show (s.br.buf >>> n).toNat < 2 ^ (s.br.cnt - BitVec.ofNat 6 n).toNat
    rw [BitVec.toNat_sub_of_le hle, h6, BitVec.toNat_ushiftRight, Nat.shiftRight_eq_div_pow,
      Nat.div_lt_iff_lt_mul (Nat.two_pow_pos n), hpow]
    exact h

theorem getBits_ok {n : Nat} {s : State} (hn : n ≤ 32) (h : ReaderOk s.br) :
    ReaderOk (getBits n s).final.br := by
  unfold getBits
  split
  · exact h
  · refine Res.final_bind_of (P := fun t => ReaderOk t.br) (peek_ok hn h) fun v t _ ht => ?_
    exact Res.final_bind_of (P := fun t => ReaderOk t.br) (consume_ok hn ht) fun _ u _ hu => hu

/-! ### The decoder -/

theorem elementCode_same (h : PhaseHead) (i : Nat) (s : State) :
    SameButReader s (elementCode h i s).final := by
  unfold elementCode
  split
  · exact SameButReader.rfl
  · split
    · exact SameButReader.rfl
    · exact Res.final_bind (R := SameButReader) SameButReader.trans (getBits_same 7 s) fun _ t _ => SameButReader.rfl

theorem readHead_same (s : State) : SameButReader s (readHead s).final := by
  unfold readHead
  refine Res.final_bind (R := SameButReader) SameButReader.trans (getBits_same 11 s) fun mx t _ => ?_
  refine Res.final_bind (R := SameButReader) SameButReader.trans (getBits_same 11 t) fun mn u _ => ?_
  split
  · exact SameButReader.rfl
  · refine Res.final_bind (R := SameButReader) SameButReader.trans (getBits_same 4 u) fun imax v _ => ?_
    exact Res.final_bind (R := SameButReader) SameButReader.trans (getBits_same 4 v) fun imin w _ => SameButReader.rfl

theorem decodeElement_same (dst : Word) (j : Nat) (h : PhaseHead) (i : Nat) (s : State) :
    SameButDecode s (decodeElement dst j h i s).final := by
  unfold decodeElement
  refine Res.final_bind (R := SameButDecode) SameButDecode.trans (elementCode_same h i s).decode fun v t _ => ?_
  refine SameButDecode.trans (t := { t with rng := lcg t.rng }) ?_ (memWrite_same _ _ _ _).decode
  simp [SameButDecode]

theorem forRange_decode {body : Nat → State → Res Unit}
    (hb : ∀ i s, SameButDecode s (body i s).final) (n i : Nat) (s : State) :
    SameButDecode s (forRange body n i s).final :=
  forRange_final (P := SameButDecode s) (fun i _ h => h.trans (hb i _)) n i s SameButDecode.rfl

theorem decodePhase_same (dst : Word) (j : Nat) (s : State) :
    SameButDecode s (decodePhase dst j s).final := by
  unfold decodePhase
  exact Res.final_bind (R := SameButDecode) SameButDecode.trans (readHead_same s).decode fun h t _ =>
    forRange_decode (fun i u => decodeElement_same dst j h i u) 16 0 t

theorem decodeRow_same (dst src : Word) (w : Nat) (s : State) :
    SameButDecode s (decodeRow dst src w s).final := by
  unfold decodeRow
  have h0 : SameButDecode s (s.openReader src (BitVec.ofNat 32 w)) := by
    simp [SameButDecode, State.openReader]
  refine h0.trans (Res.final_bind (R := SameButDecode) SameButDecode.trans (peek_same 16 _).decode fun seed t _ => ?_)
  refine SameButDecode.trans (t := { t with rng := seed }) (by simp [SameButDecode]) ?_
  exact forRange_decode (fun b u => forRange_decode (fun j v => decodePhase_same _ j v) 2 0 u) _ 0 _

theorem decodeImage_same (dst src : Word) (w stride height : Nat) (s : State) :
    SameButDecode s (decodeImage dst src w stride height s).final :=
  forRange_decode (fun _ u => decodeRow_same _ _ w u) height 0 s

/-- What the decoder keeps, however it ends: the reader's invariant, the canonical memory, no reset
pending. -/
structure DecodeOk (s : State) : Prop where
  reader : ReaderOk s.br
  mem : s.mem.wf = true

theorem getBits_decodeOk {n : Nat} {s : State} (hn : n ≤ 32) (h : DecodeOk s) :
    DecodeOk (getBits n s).final := by
  refine ⟨getBits_ok hn h.reader, ?_⟩
  rw [getBits_same n s]; exact h.mem

theorem elementCode_decodeOk (hd : PhaseHead) (i : Nat) {s : State} (h : DecodeOk s) :
    DecodeOk (elementCode hd i s).final := by
  unfold elementCode
  split
  · exact h
  · split
    · exact h
    · exact Res.final_bind_of (getBits_decodeOk (by decide) h) fun _ t _ ht => ht

theorem decodeElement_decodeOk (dst : Word) (j : Nat) (hd : PhaseHead) (i : Nat) (s : State)
    (h : DecodeOk s) : DecodeOk (decodeElement dst j hd i s).final := by
  unfold decodeElement
  refine Res.final_bind_of (elementCode_decodeOk hd i h) fun v t _ ht => ?_
  show DecodeOk (memWrite _ _ _ _).final
  have hs := memWrite_same 2 (sampleAddr dst j i) (ditherPixel (t.tcEntry (v <<< 1)) t.rng).toNat
    { t with rng := lcg t.rng }
  refine ⟨?_, memWrite_wf _ _ _ _ ht.mem⟩
  rw [hs]; exact ht.reader

theorem readHead_decodeOk {s : State} (h : DecodeOk s) : DecodeOk (readHead s).final := by
  unfold readHead
  refine Res.final_bind_of (getBits_decodeOk (by decide) h) fun mx t _ ht => ?_
  refine Res.final_bind_of (getBits_decodeOk (by decide) ht) fun mn u _ hu => ?_
  split
  · exact hu
  · refine Res.final_bind_of (getBits_decodeOk (by decide) hu) fun imax v _ hv => ?_
    exact Res.final_bind_of (getBits_decodeOk (by decide) hv) fun imin w _ hw => hw

theorem decodePhase_decodeOk (dst : Word) (j : Nat) (s : State) (h : DecodeOk s) :
    DecodeOk (decodePhase dst j s).final := by
  unfold decodePhase
  exact Res.final_bind_of (readHead_decodeOk h) fun hd t _ ht =>
    forRange_final (fun i u hu => decodeElement_decodeOk dst j hd i u hu) 16 0 t ht

theorem decodeRow_decodeOk (dst src : Word) (w : Nat) (s : State) (h : DecodeOk s) :
    DecodeOk (decodeRow dst src w s).final := by
  unfold decodeRow
  have h0 : DecodeOk (s.openReader src (BitVec.ofNat 32 w)) := ⟨by simp [ReaderOk], h.mem⟩
  have hp : DecodeOk (peek 16 (s.openReader src (BitVec.ofNat 32 w))).final := by
    refine ⟨peek_ok (by decide) h0.reader, ?_⟩
    rw [peek_same 16 _]; exact h0.mem
  refine Res.final_bind_of hp fun seed t _ ht => ?_
  exact forRange_final (fun b u hu => forRange_final (fun j v hv => decodePhase_decodeOk _ j v hv) 2 0 u hu)
    _ 0 _ ⟨ht.reader, ht.mem⟩

theorem decodeImage_decodeOk (dst src : Word) (w stride height : Nat) (s : State) (h : DecodeOk s) :
    DecodeOk (decodeImage dst src w stride height s).final :=
  forRange_final (fun _ u hu => decodeRow_decodeOk _ _ w u hu) height 0 s h

/-! ### The bit writer -/

theorem emitBytes_same (n acc : Nat) (s : State) : SameButEncode s (emitBytes n acc s).final := by
  induction n generalizing acc s with
  | zero => exact SameButEncode.rfl
  | succ n ih =>
    unfold emitBytes
    refine Res.final_bind (R := SameButEncode) SameButEncode.trans (memWrite_same _ _ _ _).encode fun _ t _ => ?_
    exact SameButEncode.trans (by simp [SameButEncode]) (ih _ _)

theorem push_same (v n : Nat) (s : State) : SameButEncode s (push v n s).final := by
  unfold push
  split
  · exact SameButEncode.rfl
  · exact Res.final_bind (R := SameButEncode) SameButEncode.trans (emitBytes_same _ _ s) fun _ t _ => by simp [SameButEncode]

theorem pushAll_same (fs : List (Nat × Nat)) (s : State) : SameButEncode s (pushAll fs s).final := by
  induction fs generalizing s with
  | nil => exact SameButEncode.rfl
  | cons f fs ih =>
    exact Res.final_bind (R := SameButEncode) SameButEncode.trans (push_same f.1 f.2 s) fun _ t _ => ih t

/-- The writer's invariant (10_state.md R45). -/
def WriterOk (w : BitWriter) : Prop := w.acc.toNat < 2 ^ w.cnt.toNat

/-- What the encoder keeps, however it ends. -/
structure EncodeOk (s : State) : Prop where
  writer : WriterOk s.bw
  mem : s.mem.wf = true

theorem emitBytes_encodeOk (n acc : Nat) (s : State) (h : EncodeOk s) :
    EncodeOk (emitBytes n acc s).final := by
  induction n generalizing acc s with
  | zero => exact h
  | succ n ih =>
    unfold emitBytes
    have hm : EncodeOk (memWrite 1 s.bw.ptr (acc &&& 0xFF) s).final := by
      refine ⟨?_, memWrite_wf _ _ _ _ h.mem⟩
      rw [memWrite_same 1 s.bw.ptr (acc &&& 0xFF) s]; exact h.writer
    exact Res.final_bind_of hm fun _ t _ ht => ih _ _ ⟨ht.writer, ht.mem⟩

theorem pushAcc_lt {w : BitWriter} (h : WriterOk w) (v n : Nat) :
    pushAcc w v n < 2 ^ (w.cnt.toNat + n) := by
  unfold pushAcc
  refine Nat.or_lt_two_pow (lt_of_lt_of_le h (Nat.pow_le_pow_right (by decide) (by omega))) ?_
  have hm : v &&& mask n < 2 ^ n := Nat.and_lt_two_pow v (by have := Nat.two_pow_pos n; unfold mask; omega)
  rw [Nat.shiftLeft_eq, Nat.add_comm, Nat.pow_add]
  exact Nat.mul_lt_mul_of_pos_right hm (Nat.two_pow_pos _)

theorem push_encodeOk (v n : Nat) (s : State) (h : EncodeOk s) : EncodeOk (push v n s).final := by
  unfold push
  split
  · exact h
  · refine Res.final_bind_of (emitBytes_encodeOk _ _ s h) fun _ t _ ht => ⟨?_, ht.mem⟩
    have hlt := pushAcc_lt h.writer v n
    have hrest : s.bw.cnt.toNat + n - 8 * pushBytes s.bw n < 8 := by unfold pushBytes; omega
    have hsum : 8 * pushBytes s.bw n + (s.bw.cnt.toNat + n - 8 * pushBytes s.bw n) = s.bw.cnt.toNat + n := by
      unfold pushBytes; omega
    have hdiv : pushAcc s.bw v n >>> (8 * pushBytes s.bw n)
        < 2 ^ (s.bw.cnt.toNat + n - 8 * pushBytes s.bw n) := by
      rw [Nat.shiftRight_eq_div_pow]
      apply Nat.div_lt_of_lt_mul
      rw [← Nat.pow_add, hsum]; exact hlt
    have h8 : 2 ^ (s.bw.cnt.toNat + n - 8 * pushBytes s.bw n) ≤ 2 ^ 8 :=
      Nat.pow_le_pow_right (by decide) (by omega)
    show (BitVec.ofNat 8 _).toNat < 2 ^ (BitVec.ofNat 3 _).toNat
    rw [BitVec.toNat_ofNat, BitVec.toNat_ofNat, Nat.mod_eq_of_lt (lt_of_lt_of_le hdiv h8),
      Nat.mod_eq_of_lt (show _ < 2 ^ 3 by omega)]
    exact hdiv

theorem pushAll_encodeOk (fs : List (Nat × Nat)) (s : State) (h : EncodeOk s) :
    EncodeOk (pushAll fs s).final := by
  induction fs generalizing s with
  | nil => exact h
  | cons f fs ih => exact Res.final_bind_of (push_encodeOk f.1 f.2 s h) fun _ t _ ht => ih t ht

/-! ### The encoder -/

/-- Reading the codes of a phase makes draws only, however it ends. -/
theorem readCodes_same (src : Word) (j n i : Nat) (s : State) : SameButDraws s (readCodes src j n i s).final := by
  induction n generalizing i s with
  | zero => exact SameButDraws.rfl
  | succ n ih =>
    unfold readCodes
    refine Res.final_bind (R := SameButDraws) SameButDraws.trans (memRead_same _ _ s) fun v t _ => ?_
    exact Res.final_bind (R := SameButDraws) SameButDraws.trans (ih (i + 1) t) fun _ _ _ => SameButDraws.rfl

theorem encodePhase_same (src : Word) (j : Nat) (s : State) :
    SameButEncode s (encodePhase src j s).final := by
  unfold encodePhase
  refine Res.final_bind (R := SameButEncode) SameButEncode.trans ?_ fun codes t _ => pushAll_same _ t
  exact (readCodes_same _ _ _ _ s).encode

theorem encodePhase_encodeOk (src : Word) (j : Nat) (s : State) (h : EncodeOk s) :
    EncodeOk (encodePhase src j s).final := by
  unfold encodePhase
  refine Res.final_bind_of (P := EncodeOk) ?_ fun codes t _ ht => pushAll_encodeOk _ t ht
  have hs := readCodes_same src j 16 0 s
  exact ⟨by rw [hs]; exact h.writer, by rw [hs]; exact h.mem⟩

theorem finish_final (s : State) : (finish s).final = s := by
  unfold finish; split <;> rfl

theorem forRange_encode {body : Nat → State → Res Unit}
    (hb : ∀ i s, SameButEncode s (body i s).final) (n i : Nat) (s : State) :
    SameButEncode s (forRange body n i s).final :=
  forRange_final (P := SameButEncode s) (fun i _ h => h.trans (hb i _)) n i s SameButEncode.rfl

theorem encodeRow_same (dst src : Word) (w : Nat) (s : State) :
    SameButEncode s (encodeRow dst src w s).final := by
  unfold encodeRow
  have h0 : SameButEncode s (s.openWriter dst (BitVec.ofNat 32 w)) := by
    simp [SameButEncode, State.openWriter]
  refine h0.trans (Res.final_bind (R := SameButEncode) SameButEncode.trans ?_ fun _ t _ => ?_)
  · exact forRange_encode (fun b u => forRange_encode (fun j v => encodePhase_same _ j v) 2 0 u) _ 0 _
  · refine Res.final_bind (R := SameButEncode) SameButEncode.trans ?_ fun _ u _ => SameButEncode.rfl
    rw [finish_final]; exact SameButEncode.rfl

theorem encodeRow_encodeOk (dst src : Word) (w : Nat) (s : State) (h : EncodeOk s) :
    EncodeOk (encodeRow dst src w s).final := by
  unfold encodeRow
  refine Res.final_bind_of (P := EncodeOk) ?_ fun _ t _ ht => ?_
  · exact forRange_final
      (fun b u hu => forRange_final (fun j v hv => encodePhase_encodeOk _ j v hv) 2 0 u hu) _ 0 _
      ⟨by simp [WriterOk], h.mem⟩
  · refine Res.final_bind_of (P := EncodeOk) ?_ fun _ u _ hu => hu
    rw [finish_final]; exact ht

theorem encodeImage_same (dst src : Word) (w height : Nat) (s : State) :
    SameButEncode s (encodeImage dst src w height s).final :=
  forRange_encode (fun _ u => encodeRow_same _ _ w u) height 0 s

theorem encodeImage_encodeOk (dst src : Word) (w height : Nat) (s : State) (h : EncodeOk s) :
    EncodeOk (encodeImage dst src w height s).final :=
  forRange_final (fun _ u hu => encodeRow_encodeOk _ _ w u hu) height 0 s h

/-! ### The checks before an effect -/

@[simp] theorem requireTable_final (s : State) : (requireTable s).final = s := by
  unfold requireTable; split <;> rfl

@[simp] theorem requireBelow_final (limit : Nat) (v : Word) (s : State) :
    (requireBelow limit v s).final = s := by
  unfold requireBelow; split <;> rfl

@[simp] theorem checkWidth_final (s : State) : (checkWidth s).final = s := by
  unfold checkWidth; split
  · rfl
  · split <;> rfl

@[simp] theorem checkDecodeGeometry_final (s : State) : (checkDecodeGeometry s).final = s := by
  unfold checkDecodeGeometry
  refine Res.final_bind_of (P := (· = s)) (checkWidth_final s) fun w t _ ht => ?_
  subst ht
  split
  · rfl
  · split <;> rfl

end Sys2Proof.Machine
end

