-- ==== Sys2Proof/Machine/Assembler.lean ====
section
/-!
DEFINITION. The assembler's language: one command per line, the operand forms of 30_encoding.md R93, the
pseudo-instructions of R94, the refusals of R95.  It is no part of the machine's step: it says which
words a line of a listing stands for.
-/

namespace Sys2Proof.Machine

/-- Why a line is refused (30_encoding.md R95): `mnemonic` is no command, `operands` is a wrong number of
operands, `register`, `number` and `csr` an operand that does not fit its field or is no such name. -/
inductive AsmError where
  | mnemonic | operands | register | number | csr
  deriving DecidableEq, Repr

/-- The names of the CSRs (10_state.md R27, 30_encoding.md R93). -/
def csrNames : List (String × Csr) :=
  [("ID", .id), ("CTRL", .ctrl), ("STATUS", .status), ("CMD_BASE", .cmdBase), ("CP", .cp),
    ("CMD_COUNT", .cmdCount), ("FAULT_CODE", .faultCode), ("FAULT_INFO", .faultInfo), ("RNG", .rng),
    ("BR_PTR", .brPtr), ("BR_REM", .brRem), ("BR_BUFL", .brBufl), ("BR_BUFH", .brBufh), ("BR_CNT", .brCnt),
    ("BW_PTR", .bwPtr), ("BW_REM", .bwRem), ("BW_ACC", .bwAcc), ("BW_CNT", .bwCnt), ("TC_BP0", .tcBp0),
    ("TC_BP1", .tcBp1), ("TC_BP2", .tcBp2), ("TC_BP3", .tcBp3), ("G_WIDTH", .gWidth),
    ("G_HEIGHT", .gHeight), ("G_STRIDE", .gStride), ("G_SRCLEN", .gSrclen)]

/-- The value of a digit in a base up to 16. -/
def digitValue (base : Nat) (c : Char) : Option Nat :=
  let v :=
    if '0' ≤ c ∧ c ≤ '9' then c.toNat - '0'.toNat
    else if 'a' ≤ c ∧ c ≤ 'f' then c.toNat - 'a'.toNat + 10
    else if 'A' ≤ c ∧ c ≤ 'F' then c.toNat - 'A'.toNat + 10
    else base
  if v < base then some v else none

/-- The value of a run of digits after one of value `acc`. -/
def digitsValue (base acc : Nat) : List Char → Option Nat
  | [] => some acc
  | c :: cs =>
    match digitValue base c with
    | some d => digitsValue base (acc * base + d) cs
    | none => none

/-- A number, decimal or with a `0x` prefix (30_encoding.md R93). -/
def numberOf : List Char → Option Nat
  | [] => none
  | '0' :: 'x' :: c :: cs => digitsValue 16 0 (c :: cs)
  | c :: cs => digitsValue 10 0 (c :: cs)

/-- A number that fits its field, below `limit` (30_encoding.md R95). -/
def fieldOf (limit : Nat) (t : List Char) : Except AsmError Nat :=
  match numberOf t with
  | some v => if v < limit then .ok v else .error .number
  | none => .error .number

/-- A register operand `x0`..`x15` (30_encoding.md R93, R95). -/
def regOf : List Char → Except AsmError Reg
  | 'x' :: c :: cs =>
    match digitsValue 10 0 (c :: cs) with
    | some v => if h : v < 16 then .ok ⟨v, h⟩ else .error .register
    | none => .error .register
  | _ => .error .register

/-- A CSR operand: its name, or the number of a defined CSR (30_encoding.md R93, R95). -/
def csrOf (t : List Char) : Except AsmError Csr :=
  match csrNames.find? fun e => e.1.toList == t with
  | some e => .ok e.2
  | none =>
    match (numberOf t).bind csrOfNum with
    | some c => .ok c
    | none => .error .csr

/-- A line with no operands. -/
def noOperand (i : Instr) : List (List Char) → Except AsmError (List Instr)
  | [] => .ok [i]
  | _ => .error .operands

/-- A line with one operand. -/
def oneOperand {α : Type} (p : List Char → Except AsmError α) (f : α → List Instr) :
    List (List Char) → Except AsmError (List Instr)
  | [a] => (p a).map f
  | _ => .error .operands

/-- A line with two operands. -/
def twoOperands {α β : Type} (p : List Char → Except AsmError α) (q : List Char → Except AsmError β)
    (f : α → β → List Instr) : List (List Char) → Except AsmError (List Instr)
  | [a, b] => (p a).bind fun x => (q b).map fun y => f x y
  | _ => .error .operands

/-- An imm16 operand. -/
def imm16Of (t : List Char) : Except AsmError (BitVec 16) := (fieldOf 65536 t).map (BitVec.ofNat 16)

/-- A bit-count operand, 0..32. -/
def countOf (t : List Char) : Except AsmError (BitVec 6) := (fieldOf 33 t).map (BitVec.ofNat 6)

/-- A phase operand, 0 or 1. -/
def phaseOf (t : List Char) : Except AsmError Phase := (fieldOf 2 t).map (Fin.ofNat 2)

/-- The commands a mnemonic and its operands stand for: the forms of 30_encoding.md R93 and the
pseudo-instructions LI32, CLR and BR.CONSUME of R94. -/
def commandsOf (mnemonic : String) (ops : List (List Char)) : Except AsmError (List Instr) :=
  match mnemonic with
  | "NOP" => noOperand .nop ops
  | "STOP" => noOperand .stop ops
  | "LI" => twoOperands regOf imm16Of (fun rd v => [.li rd v]) ops
  | "LUI" => twoOperands regOf imm16Of (fun rd v => [.lui rd v]) ops
  | "CSRR" => twoOperands regOf csrOf (fun rd c => [.csrr rd c]) ops
  | "CSRW" => twoOperands csrOf regOf (fun c rs => [.csrw c rs]) ops
  | "BR.INIT" => twoOperands regOf regOf (fun ra rl => [.brInit ra rl]) ops
  | "BR.PEEK" => twoOperands regOf countOf (fun rd n => [.brPeek rd n]) ops
  | "BR.GET" => twoOperands regOf countOf (fun rd n => [.brGet rd n]) ops
  | "BR.SKIP" => oneOperand countOf (fun n => [.brSkip n]) ops
  | "BW.INIT" => twoOperands regOf regOf (fun ra rl => [.bwInit ra rl]) ops
  | "BW.PUT" => twoOperands regOf countOf (fun rs n => [.bwPut rs n]) ops
  | "BW.FIN" => oneOperand regOf (fun rd => [.bwFin rd]) ops
  | "TC.BUILD" => noOperand .tcBuild ops
  | "TC.DITH" => twoOperands regOf regOf (fun rd rs => [.tcDith rd rs]) ops
  | "TC.RLK" => twoOperands regOf regOf (fun rd rs => [.tcRlk rd rs]) ops
  | "TC.CTR" => twoOperands regOf regOf (fun rd rs => [.tcCtr rd rs]) ops
  | "TC.BD" => twoOperands regOf regOf (fun rd rs => [.tcBd rd rs]) ops
  | "DC.DPH" => twoOperands regOf phaseOf (fun ra j => [.dcDph ra j]) ops
  | "DC.EPH" => twoOperands regOf phaseOf (fun ra j => [.dcEph ra j]) ops
  | "DC.DROW" => twoOperands regOf regOf (fun ra rb => [.dcDrow ra rb]) ops
  | "DC.EROW" => twoOperands regOf regOf (fun ra rb => [.dcErow ra rb]) ops
  | "DC.DEC" => twoOperands regOf regOf (fun ra rb => [.dcDec ra rb]) ops
  | "DC.ENC" => twoOperands regOf regOf (fun ra rb => [.dcEnc ra rb]) ops
  | "LI32" =>
    twoOperands regOf (fieldOf (2 ^ 32))
      (fun rd v => [.li rd (BitVec.ofNat 16 v), .lui rd (BitVec.ofNat 16 (v / 65536))]) ops
  | "CLR" => oneOperand regOf (fun rd => [.li rd 0]) ops
  | "BR.CONSUME" => oneOperand countOf (fun n => [.brSkip n]) ops
  | _ => .error .mnemonic

/-- A character that separates words on a line. -/
def isBlank (c : Char) : Bool := c == ' ' || c == '\t'

/-- Text without the blanks around it. -/
def trimBlanks (t : List Char) : List Char := ((t.dropWhile isBlank).reverse.dropWhile isBlank).reverse

/-- The operands of a line: the texts between its commas; no text, no operands. -/
def operandsOf (t : List Char) : List (List Char) :=
  if t.isEmpty then [] else (t.splitOn ',').map trimBlanks

/-- The words of one line of a listing, in order: none for an empty or comment line
(30_encoding.md R93 to R95). -/
def assembleLine (line : String) : Except AsmError (List Word) :=
  let text := trimBlanks (line.toList.takeWhile fun c => c != ';')
  let name := text.takeWhile fun c => !isBlank c
  if text.isEmpty then .ok []
  else (commandsOf (String.ofList name) (operandsOf (trimBlanks (text.drop name.length)))).map
    (List.map encode)

end Sys2Proof.Machine
end

