-- ==== Sys2Proof/Tests/Slice0.lean ====
section
/-!
SUPPORT. Tests of the model on values taken from the spec (95_test_vectors.md and the examples of the rules),
and for every obligation with hypotheses a witness that meets them.
-/

namespace Sys2Proof.Tests

open Sys2Proof.Machine

/-! ### Well-formedness and encoding -/

/-- 30_encoding.md R90(c): 33 is refused as a bit count, 32 is not. -/
theorem test_ill_formed_counts :
    (Instr.brPeek 0 33).wellFormed = false ∧ (Instr.brGet 0 33).wellFormed = false ∧
    (Instr.brSkip 63).wellFormed = false ∧ (Instr.bwPut 0 33).wellFormed = false ∧
    (Instr.brPeek 0 32).wellFormed = true ∧ (Instr.bwPut 15 0).wellFormed = true := by decide

/-- An ill-formed term, and one bit more than fits it, is no command of the decoder (R96: 0x11000021). -/
theorem test_ill_formed_refused :
    decode (encode (.brPeek 0 33)) = .error .imm ∧ decode 0x13000021 = .error .imm := by decide

/-- One word per command, written out field by field from 30_encoding.md R85 and R89 (those of R96 among
them). -/
theorem test_decode_control :
    decode 0x00000000 = .ok .nop ∧ decode 0x01000000 = .ok .stop ∧
    decode 0x02102000 = .ok (.li 1 0x2000) ∧ decode 0x0390FFFF = .ok (.lui 9 0xFFFF) ∧
    decode 0x04900010 = .ok (.csrr 9 .rng) ∧ decode 0x05010020 = .ok (.csrw .tcBp0 1) := by decide

theorem test_decode_reader :
    decode 0x10120000 = .ok (.brInit 1 2) ∧ decode 0x1170000C = .ok (.brPeek 7 12) ∧
    decode 0x12500003 = .ok (.brGet 5 3) ∧ decode 0x13000020 = .ok (.brSkip 32) := by decide

theorem test_decode_writer :
    decode 0x18120000 = .ok (.bwInit 1 2) ∧ decode 0x1903000C = .ok (.bwPut 3 12) ∧
    decode 0x1A400000 = .ok (.bwFin 4) := by decide

theorem test_decode_curve :
    decode 0x20000000 = .ok .tcBuild ∧ decode 0x21430000 = .ok (.tcDith 4 3) ∧
    decode 0x22640000 = .ok (.tcRlk 6 4) ∧ decode 0x23730000 = .ok (.tcCtr 7 3) ∧
    decode 0x24830000 = .ok (.tcBd 8 3) := by decide

theorem test_decode_codec :
    decode 0x30200001 = .ok (.dcDph 2 1) ∧ decode 0x31200000 = .ok (.dcEph 2 0) ∧
    decode 0x32320000 = .ok (.dcDrow 3 2) ∧ decode 0x33230000 = .ok (.dcErow 2 3) ∧
    decode 0x34230000 = .ok (.dcDec 2 3) ∧ decode 0x35F00000 = .ok (.dcEnc 15 0) := by decide

/-- The encoder writes the same words. -/
theorem test_encode :
    encode (.lui 9 0xFFFF) = 0x0390FFFF ∧ encode (.csrw .tcBp0 1) = 0x05010020 ∧
    encode (.bwPut 3 12) = 0x1903000C ∧ encode (.dcDph 2 1) = 0x30200001 ∧
    encode (.dcDec 2 3) = 0x34230000 := by decide

/-- The illegal words of 30_encoding.md R96 and 95_test_vectors.md L2.1. -/
theorem test_illegal_words :
    decode 0xFF000000 = .error .opcode ∧ decode 0x00000001 = .error .imm ∧
    decode 0x11000021 = .error .imm ∧ decode 0x11010000 = .error .fieldB ∧
    decode 0x30000002 = .error .imm ∧ decode 0x04000050 = .error .imm ∧
    decode 0x04000110 = .error .imm ∧ decode 0x01000001 = .error .imm ∧
    decode 0x05110020 = .error .fieldA := by decide

/-- The assembler of 30_encoding.md R93 to R95 on lines of R96 and the refusals of R95. -/
theorem test_assembler :
    assembleLine "LI x1, 0x2000 ; comment" = .ok [0x02102000] ∧
    assembleLine "CSRW TC_BP0, x1" = .ok [0x05010020] ∧
    assembleLine "LI32 x2, 0x1FFFF" = .ok [0x0220FFFF, 0x03200001] ∧
    assembleLine "BR.CONSUME 1" = .ok [0x13000001] ∧
    assembleLine "LI x16, 0" = .error .register ∧ assembleLine "BR.SKIP 33" = .error .number ∧
    assembleLine "DC.DPH x2, 2" = .error .number ∧ assembleLine "CSRR x1, NONE" = .error .csr := by
  decide +kernel

/-! ### Small states -/

/-- A running block at CP = 0x1000, every register 0. -/
def running : State := { State.reset with busy := true, cp := 0x1000 }

/-- The state with bytes in memory. -/
def withBytes (s : State) (a : Word) (bs : List Byte) : State := { s with mem := s.mem.place a bs }

/-- What a command leaves. -/
def after (i : Instr) (s : State) : Option State :=
  match exec i s with
  | .next t => some t
  | _ => none

/-- What a step leaves. -/
def stepped (s : State) : Option State :=
  match step s with
  | .next t => some t
  | _ => none

/-- A running state whose table holds the first entries of the EX curve, all in segment 0: index i has
center i, base i - 1 and delta 2 (95_test_vectors.md TC-1), enough for the indices a test reads. -/
def segment0 (count : Nat) : State :=
  { running with tcValid := true, tc := ⟨0, 0, 1⟩ :: (List.range count).map fun k =>
      ⟨BitVec.ofNat 16 (k + 1), BitVec.ofNat 16 k, 2⟩ }

/-- A running state whose table agrees with the EX curve at the indices 0 and 4094 (TC-1). -/
def ends : State :=
  { running with tcValid := true, tc := List.replicate 4094 ⟨0, 0, 1⟩ ++ [⟨17204, 17196, 32⟩] }

/-- The phase DP-a of 95_test_vectors.md L2.9: max 2047, min 0, imax 0, imin 1, all residuals 0. -/
def phaseA : List Byte := [0xff, 0x07, 0x00, 0x04, 0, 0, 0, 0, 0, 0, 0, 0, 0, 0, 0, 0]

/-- The phase EP-flat of 95_test_vectors.md L2.10: code 500 everywhere. -/
def phaseFlat : List Byte := [0xf4, 0xa1, 0x0f, 0x04, 0, 0, 0, 0, 0, 0, 0, 0, 0, 0, 0, 0]

/-- The sample 1000, count times. -/
def thousands (count : Nat) : List Byte := (List.replicate count [0xE8, 0x03]).flatten

/-- The bytes from a up. -/
def bytesOf (s : State) (a : Word) (n : Nat) : List Byte :=
  (List.range n).map fun k => s.byteAt (a + BitVec.ofNat 32 k)

/-! ### One step of each command, on the spec's own values -/

/-- 40_control.md R102: NOP at 0x1000. -/
theorem test_nop : (after .nop running).map (fun t => (t.cp, t.cmdCount)) = some (0x1004, 1) := by decide

/-- 40_control.md R101: STOP at 0x1000. -/
theorem test_stop :
    (after .stop running).map (fun t => (t.cp, t.cmdCount, t.statusWord)) = some (0x1000, 1, 2) := by decide

/-- 95_test_vectors.md L2.2: LI clears bits 31:16. -/
theorem test_li : (after (.li 1 5) { running with x := running.x.set 1 0x1234FFFF }).map (·.getX 1) = some 5 := by
  decide

/-- 40_control.md R104. -/
theorem test_lui :
    (after (.lui 9 0xABCD) { running with x := running.x.set 9 0x00001234 }).map (·.getX 9) =
      some 0xABCD1234 := by decide

/-- 95_test_vectors.md L2.2: STATUS of a run with a built table, and CP of the CSRR itself. -/
theorem test_csrr :
    (after (.csrr 10 .status) { running with tcValid := true }).map (·.getX 10) = some 9 ∧
    (after (.csrr 5 .cp) { running with cp := 0x1018 }).map (·.getX 5) = some 0x1018 := by decide

/-- 40_control.md R106: TC_BP0 takes the value and TC_VALID falls. -/
theorem test_csrw :
    (after (.csrw .tcBp0 1) { running with x := running.x.set 1 0x51F40, tcValid := true }).map
      (fun t => (t.tcBp0, t.tcValid)) = some (0x1F40, false) := by decide

/-- 95_test_vectors.md F-CSR. -/
theorem test_csrw_access :
    (after (.csrw .cp 1) running).map (fun t => (t.faultCode, t.faultInfo, t.cp, t.statusWord)) =
      some (2, 4, 0x1000, 4) := by decide

/-- 42_bit_reader.md R152. -/
theorem test_brInit :
    (after (.brInit 1 2) { running with x := (running.x.set 1 0x2000).set 2 8 }).map (·.br) =
      some ⟨0x2000, 8, 0, 0⟩ := by decide

/-- The reader of 42_bit_reader.md R153 and R154 over its eight bytes. -/
def reading (br : BitReader) : State :=
  { withBytes running 0x2000 [0x78, 0x56, 0x34, 0x12, 0xF0, 0xDE, 0xBC, 0x9A] with br }

/-- 42_bit_reader.md R153: a peek that refills. -/
theorem test_brPeek :
    (after (.brPeek 7 4) (reading ⟨0x2000, 8, 0, 0⟩)).map (fun t => (t.getX 7, t.br)) =
      some (8, ⟨0x2004, 4, 0x12345678, 32⟩) := by decide

/-- 42_bit_reader.md R154: a Get of 32 bits at BR_CNT = 20. -/
theorem test_brGet :
    (after (.brGet 5 32) (reading ⟨0x2004, 4, 0x12345, 20⟩)).map (fun t => (t.getX 5, t.br)) =
      some (0xEF012345, ⟨0x2008, 0, 0x9ABCD, 20⟩) := by decide

/-- 42_bit_reader.md R154: READ_OVERRUN with info 0x2008. -/
theorem test_brGet_overrun :
    (after (.brGet 5 1) (reading ⟨0x2008, 0, 0, 0⟩)).map (fun t => (t.faultCode, t.faultInfo, t.cp)) =
      some (3, 0x2008, 0x1000) := by decide

/-- 42_bit_reader.md R155: BR.SKIP 1 straight after BR.INIT. -/
theorem test_brSkip_underflow :
    (after (.brSkip 1) (reading ⟨0x2000, 8, 0, 0⟩)).map (fun t => (t.faultCode, t.faultInfo)) =
      some (11, 1) := by decide

/-- 42_bit_reader.md R154's first Get as a skip: 12 bits of 0x12345678. -/
theorem test_brSkip :
    (after (.brSkip 12) (reading ⟨0x2004, 4, 0x12345678, 32⟩)).map (·.br) =
      some ⟨0x2004, 4, 0x12345, 20⟩ := by decide

/-- 43_bit_writer.md R165. -/
theorem test_bwInit :
    (after (.bwInit 1 2) { running with x := (running.x.set 1 0x3000).set 2 4 }).map (·.bw) =
      some ⟨0x3000, 4, 0, 0⟩ := by decide

/-- 95_test_vectors.md L2.8: Push(0x12345678, 20) after 3 bits of 0x5. -/
theorem test_bwPut :
    (after (.bwPut 3 20) { running with x := running.x.set 3 0x12345678, bw := ⟨0x3000, 3, 5, 3⟩ }).map
      (fun t => (t.bw, bytesOf t 0x3000 3)) = some (⟨0x3002, 1, 0x22, 7⟩, [0xc5, 0xb3, 0]) := by decide

/-- 95_test_vectors.md L2.8: the push of 32 bits that would emit 4 bytes. -/
theorem test_bwPut_overrun :
    (after (.bwPut 3 32) { running with bw := ⟨0x3002, 1, 0x22, 7⟩ }).map
      (fun t => (t.faultCode, t.faultInfo, t.bw)) = some (4, 0x3002, ⟨0x3002, 1, 0x22, 7⟩) := by decide

/-- 43_bit_writer.md R167. -/
theorem test_bwFin :
    (after (.bwFin 4) { running with bw := ⟨0x3003, 1, 0, 0⟩ }).map (·.getX 4) = some 0x3003 := by decide

/-- 43_bit_writer.md R167: RESIDUAL_BITS with info 4. -/
theorem test_bwFin_residual :
    (after (.bwFin 4) { running with bw := ⟨0x3002, 2, 0xB, 4⟩ }).map
      (fun t => (t.faultCode, t.faultInfo)) = some (5, 4) := by decide

/-- 41_tone_curve.md R125: TC_BP = 4, 4, 4, 4 (95_test_vectors.md F-CC1). -/
theorem test_tcBuild_negative :
    (after .tcBuild { running with tcBp0 := 4, tcBp1 := 4, tcBp2 := 4, tcBp3 := 4 }).map
      (fun t => (t.faultCode, t.faultInfo, t.tcValid)) = some (7, 0x10001, false) := by decide +kernel

/-- 95_test_vectors.md TC-2: code 2 with RNG 0x12345678 on the EX curve. -/
theorem test_tcDith :
    (after (.tcDith 1 2) { segment0 4 with x := running.x.set 2 2, rng := 0x12345678 }).map
      (fun t => (t.getX 1, t.rng)) = some (2, 0x14B70994) := by decide

/-- 95_test_vectors.md F-OPR1. -/
theorem test_tcDith_range :
    (after (.tcDith 1 2) { segment0 4 with x := running.x.set 2 0x1000 }).map
      (fun t => (t.faultCode, t.faultInfo)) = some (8, 0x1000) := by decide

/-- 95_test_vectors.md TC-3: v = 1 on the EX curve has r = 2 and the result 1. -/
theorem test_tcRlk :
    (after (.tcRlk 1 2) { segment0 8 with x := running.x.set 2 1 }).map (·.getX 1) = some 1 := by decide

/-- 95_test_vectors.md F-OPR2. -/
theorem test_tcRlk_range :
    (after (.tcRlk 1 2) { segment0 4 with x := running.x.set 2 0x1FFFF }).map
      (fun t => (t.faultCode, t.faultInfo)) = some (8, 0x1FFFF) := by decide

/-- 95_test_vectors.md TC-1, and F-TNB. -/
theorem test_tcCtr :
    (after (.tcCtr 7 3) { ends with x := running.x.set 3 4094 }).map (·.getX 7) = some 17204 ∧
    (after (.tcCtr 1 2) running).map (fun t => (t.faultCode, t.faultInfo)) = some (6, 0) := by
  decide +kernel

/-- 41_tone_curve.md R134: index 1000 on the example curve. -/
theorem test_tcBd :
    (after (.tcBd 8 3) { segment0 1000 with x := running.x.set 3 1000 }).map (·.getX 8) =
      some 0x000203E7 := by decide +kernel

/-- 95_test_vectors.md DP-a: the phase with RNG = 0x1234. -/
theorem test_dcDph :
    (after (.dcDph 2 0) { withBytes ends 0x1000 phaseA with
        br := ⟨0x1000, 24, 0, 0⟩, rng := 0x1234, x := running.x.set 2 0x4000 }).map
      (fun t => (t.rng, t.br.ptr, t.br.rem, t.br.cnt, bytesOf t 0x4000 8)) =
      some (0x35FDE50F, 0x1010, 8, 0, [0x30, 0x43, 0, 0, 0, 0, 0, 0]) := by decide +kernel

/-- 95_test_vectors.md DP-e: PHASE_ORDER after the two 11-bit reads. -/
theorem test_dcDph_order :
    (after (.dcDph 2 0) { withBytes ends 0x1000 [0x32, 0x20, 0x03, 0x04] with
        br := ⟨0x1000, 24, 0, 0⟩, rng := 0x1234 }).map
      (fun t => (t.faultCode, t.faultInfo, t.br.ptr, t.br.cnt, t.rng)) =
      some (9, 0x320064, 0x1004, 10, 0x1234) := by decide +kernel

/-- 95_test_vectors.md EP-flat: 16 samples of 1000. -/
theorem test_dcEph :
    (after (.dcEph 2 0) { withBytes (segment0 1010) 0x3000 (thousands 32) with
        bw := ⟨0x5000, 16, 0, 0⟩, x := running.x.set 2 0x3000 }).map
      (fun t => (t.bw, bytesOf t 0x5000 16)) = some (⟨0x5010, 0, 0, 0⟩, phaseFlat) := by decide +kernel

/-- 95_test_vectors.md L1.1 on the EX curve: the row of two phases DP-a. -/
theorem test_dcDrow :
    (after (.dcDrow 3 2) { withBytes ends 0x2000 (phaseA ++ phaseA) with
        gWidth := 32, x := (running.x.set 2 0x2000).set 3 0x6000 }).map
      (fun t => (t.rng, t.br, bytesOf t 0x6000 6)) =
      some (0x138820FC, ⟨0x2020, 0, 0, 0⟩, [0x3C, 0x43, 0x30, 0x43, 0, 0]) := by decide +kernel

/-- 95_test_vectors.md F-GEO2: width 40. -/
theorem test_dcErow_geometry :
    (after (.dcErow 3 3) { ends with gWidth := 40 }).map (fun t => (t.faultCode, t.faultInfo)) =
      some (10, 2) := by decide

/-- 45_encoder.md R204: a row of 32 samples of 1000. -/
theorem test_dcErow :
    (after (.dcErow 2 3) { withBytes (segment0 1010) 0x3000 (thousands 32) with
        gWidth := 32, x := (running.x.set 2 0x5000).set 3 0x3000 }).map
      (fun t => (t.bw, bytesOf t 0x5000 32)) =
      some (⟨0x5020, 0, 0, 0⟩, phaseFlat ++ phaseFlat) := by decide +kernel

/-- 95_test_vectors.md F-GEO4 and V-H0: two rows in 63 bytes are refused, no rows are not. -/
theorem test_dcDec :
    (after (.dcDec 3 3) { ends with gWidth := 32, gHeight := 2, gSrclen := 63 }).map
      (fun t => (t.faultCode, t.faultInfo)) = some (10, 4) ∧
    (after (.dcDec 3 3) { ends with gWidth := 32 }).map (fun t => (t.cp, t.cmdCount, t.fault)) =
      some (0x1004, 1, false) := by decide

/-- 95_test_vectors.md L1.1 as an image of one row. -/
theorem test_dcDec_row :
    (after (.dcDec 3 2) { withBytes ends 0x2000 (phaseA ++ phaseA) with
        gWidth := 32, gHeight := 1, gSrclen := 32, x := (running.x.set 2 0x2000).set 3 0x6000 }).map
      (fun t => (t.rng, bytesOf t 0x6000 6)) =
      some (0x138820FC, [0x3C, 0x43, 0x30, 0x43, 0, 0]) := by decide +kernel

/-- 45_encoder.md R205: rows at src and src + 64 are written to dst and dst + 32. -/
theorem test_dcEnc :
    (after (.dcEnc 2 3) { withBytes (segment0 1010) 0x3000 (thousands 64) with
        gWidth := 32, gHeight := 2, x := (running.x.set 2 0x5000).set 3 0x3000 }).map
      (fun t => (t.bw, bytesOf t 0x5020 32)) =
      some (⟨0x5040, 0, 0, 0⟩, phaseFlat ++ phaseFlat) := by decide +kernel

/-- 41_tone_curve.md R124: the values of Round4. -/
theorem test_round4 :
    [1, 2, 3, 4, 6, 16, 32].map round4 = [0, 1, 1, 1, 2, 4, 8] := by decide

/-! ### Steps from reset, the host and the reset input -/

/-- 95_test_vectors.md L2.1: an illegal word run first. -/
theorem test_step_illegal :
    (stepped (State.reset.withFetchWord 32 0x30000002)).map
      (fun t => (t.faultCode, t.faultInfo, t.cp, t.cmdCount, t.statusWord)) =
      some (1, 0x30000002, 0, 0, 4) := by decide

/-- A command run first after reset. -/
theorem test_step_runs :
    (stepped (State.reset.withFetchWord 32 0x02102000)).map (fun t => (t.getX 1, t.cp)) =
      some (0x2000, 4) := by decide

/-- 60_exceptions.md R223: the host starts a run at CMD_BASE. -/
theorem test_go :
    (stepped { State.reset with cmdBase := 0x1000, fault := true, faultCode := 3,
                                inputs := [.regWrite 4 4 1] }).map
      (fun t => (t.cp, t.statusWord, t.faultCode)) = some (0x1000, 1, 0) := by decide

/-- 20_memory.md R62: a fetch of a byte that is not admitted. -/
theorem test_stuck :
    (stepped { running with holes := [⟨0x1003, 0x1003⟩] }).map (fun t => (t.hung, t.statusWord)) =
      some (true, 1) := by decide

/-- 70_reset_and_hazards.md R247: a reset after the first of the bytes a push emits. -/
theorem test_reset_during_run :
    (stepped { withBytes running 0x1000 [0x10, 0, 0x03, 0x19] with
        x := running.x.set 3 0xABCD, bw := ⟨0x3000, 3, 0, 0⟩, inputs := [.reset 1] }).map
      (fun t => (bytesOf t 0x3000 2, t.statusWord, t.getX 3)) = some ([0xCD, 0], 0, 0) := by decide

/-- 70_reset_and_hazards.md R250: the host writes a byte during a run, and reads a byte the run has not touched. -/
theorem test_host_memory_during_run :
    (stepped { running with inputs := [.memWrite 0x3000 0xAA] }).map
      (fun t => (t.byteAt 0x3000, t.byteAt 0x3001, t.statusWord)) = some (0xAA, 0, 1) ∧
    (stepped { withBytes running 0x3000 [0x55] with inputs := [.memRead 0x3000] }).map
      (fun t => (t.hostData, t.draws)) = some (0x55, 0) := by decide

/-- 10_state.md R46: an access of four bytes that begins two bytes below the window is no access of the model, one
that ends below the window is not this block's. -/
theorem test_window_edge :
    step { State.reset with mmioBase := 0x8000, inputs := [.regWrite 0x7FFE 4 0] } = .refused .hostAccess ∧
    step { State.reset with mmioBase := 0x8000, inputs := [.regWrite 0x7FFC 4 0] } =
      .next { State.reset with mmioBase := 0x8000 } := ⟨rfl, rfl⟩

/-- 20_memory.md R73: a byte the host wrote during the run is read as one of two values, and a draw is made. -/
theorem test_race :
    hostValues 0x3000 0xAA (running.storeByte true 0x3000 0xAA).past = [0xAA] ∧
    ownValue 0x3000 0xAA (running.storeByte true 0x3000 0xAA).past = 0 ∧
    (memRead 0x3000 2 (running.storeByte true 0x3000 0xAA)).final.draws = 1 := by decide

/-- 70_reset_and_hazards.md R250, R264: what the host wrote during a run to a byte the block has not written, it reads
back, and no draw is made; of a byte the block has written a draw is made (20_memory.md R73). -/
theorem test_host_reads_back :
    (stepped { running.storeByte true 0x3000 0xAA with inputs := [.memRead 0x3000] }).map
      (fun t => (t.hostData, t.draws)) = some (0xAA, 0) ∧
    (stepped { running.storeByte false 0x3000 0xAA with inputs := [.memRead 0x3000] }).map (·.draws) =
      some 1 := by decide

/-- 20_memory.md R73: the fetch that a reset cuts off has raced with the host's write, and its draw is used up. -/
theorem test_reset_keeps_draws :
    (stepped { running.storeByte true 0x1000 0xAA with
        holes := [⟨0x1003, 0x1003⟩], inputs := [.reset 0] }).map (fun t => (t.draws, t.past, t.hung)) =
      some (1, [], false) := by decide

/-! ### States the witnesses use -/

/-- The table of the reset constants: all four breakpoints 0 (41_tone_curve.md R130). -/
@[irreducible] def zeroTable : List TcEntry := (triples (curve ⟨0, 0, 0, 0⟩)).map entryOf

theorem zero_nonnegative : firstNegative (triples (curve ⟨0, 0, 0, 0⟩)) = none := by decide +kernel

theorem zero_nondecreasing : firstDrop (triples (curve ⟨0, 0, 0, 0⟩)) = none := by decide +kernel

theorem zeroTable_built : buildTable ⟨0, 0, 0, 0⟩ = .ok zeroTable := by
  unfold zeroTable
  exact buildTable_ok (by decide) zero_nonnegative zero_nondecreasing

theorem zeroTable_length : zeroTable.length = Config.tcSize := by
  unfold zeroTable
  simp only [List.length_map, triples_length]
  exact curve_length _ (by decide) (by decide) (by decide) (by decide)

/-- A running block with the table of the reset constants built. -/
def built : State := { running with tcValid := true, tc := zeroTable }

/-- A state with the built table meets the table's invariant. -/
theorem tableInv_of {s : State} (h : s.tc = zeroTable) (h0 : s.breakpoints = ⟨0, 0, 0, 0⟩) : TableInv s :=
  ⟨by rw [h]; exact zeroTable_length, fun _ => by rw [h0, h]; exact zeroTable_built⟩

theorem built_tableInv : TableInv built := tableInv_of rfl rfl

/-- The built block with the bytes at 0x2000 behind the reader, an open writer at 0x5000 of `room` bytes,
X1 = 0x4000 and X2 = 0x2000, and a row width of 32. -/
def codec (bs : List Byte) (room : Word) : State :=
  { withBytes built 0x2000 bs with
    br := ⟨0x2000, 32, 0, 0⟩, bw := ⟨0x5000, room, 0, 0⟩, gWidth := 32,
    x := (running.x.set 1 0x4000).set 2 0x2000 }

theorem codec_tableInv (bs : List Byte) (room : Word) : TableInv (codec bs room) :=
  tableInv_of rfl (show built.breakpoints = _ from rfl)

theorem codec_streamInv (bs : List Byte) (room : Word) : StreamInv (codec bs room) :=
  ⟨show (0 : Nat) < 1 by decide, show (0 : Nat) < 1 by decide⟩

theorem codec_storeInv (bs : List Byte) (room : Word) : StoreInv (codec bs room) :=
  ⟨Memory.place_wf (m := []) rfl _ _, rfl⟩

/-- Every range of a state without holes is admitted. -/
theorem codec_admitted (bs : List Byte) (room a : Word) (n : Nat) : Admitted (codec bs room) a n :=
  admitted_of_no_holes rfl a n

/-- Where the host has written nothing during the run, it is settled too. -/
theorem codec_settled (bs : List Byte) (room a : Word) (n : Nat) : Settled (codec bs room) a n :=
  settled_of_no_holes rfl rfl a n

/-- A hole in a range leaves the range not admitted. -/
theorem not_admitted {s : State} {a : Word} {n : Nat} (k : Nat) (hk : k < n)
    (h : s.admits (a + BitVec.ofNat 32 k) = false) : ¬Admitted s a n := by
  intro ha
  have := ha _ ⟨k, hk, rfl⟩
  simp [h] at this

/-! ### Witnesses: encoding and the sequencer -/

/-- DecodeOfEncode, EncodeOfDecode: well-formed commands at the ends of their operands' ranges. -/
theorem witness_encoding :
    (Instr.brGet 15 32).wellFormed = true ∧ (Instr.bwPut 0 0).wellFormed = true ∧
    (Instr.dcEph 15 1).wellFormed = true ∧ (Instr.csrr 15 .gSrclen).wellFormed = true ∧
    decode 0x12F00020 = .ok (.brGet 15 32) ∧ decode 0x02FFFFFF = .error .fieldB := by decide

/-- IllegalWordsFault: a running block before a word of which (a), (b) or (c) of R90 holds. -/
theorem witness_illegal :
    ∀ w ∈ [0x36000000#32, 0x11010000, 0x13000021],
      let s := State.reset.withFetchWord 32 w.toNat
      s.inputs = [] ∧ s.busy = true ∧ s.hung = false ∧ s.fetch = .ok w s := by
  intro w hw
  refine ⟨rfl, rfl, rfl, ?_⟩
  rw [fetch_of_settled (settled_of_no_holes rfl rfl _ _)]
  congr 1
  fin_cases hw <;> decide

/-- IllegalWordsFault: words that are not legal, and words next to them that are. -/
theorem witness_illegal_edges :
    [0x36000000#32, 0x06000000, 0x11010000, 0x05100010, 0x00000001, 0x13000021, 0x31000002, 0x04000008,
      0x0400002C, 0x04000110].map legalWord = List.replicate 10 false ∧
    [0x35000000#32, 0x05000010, 0x13000020, 0x31000001, 0x0400002B, 0x04000007].map legalWord =
      List.replicate 6 true := by decide

/-- IllFormedTermsFault. -/
theorem witness_ill_formed :
    ∀ i ∈ [Instr.brPeek 0 33, .brGet 0 63, .brSkip 33, .bwPut 0 33], i.wellFormed = false := by decide

/-- LI at CP. -/
def atLi : State := withBytes running 0x1000 [0, 0x20, 0x10, 0x02]

/-- StepRunsDecodedCommand: LI at CP, with an empty schedule and with the sequencer's event on it. -/
theorem witness_step :
    atLi.busy = true ∧ atLi.hung = false ∧ Settled atLi atLi.cp 4 ∧ atLi.inputs = [] ∧
    ({ atLi with inputs := [.seq] } : State).inputs = [.seq] ∧
    decodeBytes [atLi.byteAt atLi.cp, atLi.byteAt (atLi.cp + 1), atLi.byteAt (atLi.cp + 2),
      atLi.byteAt (atLi.cp + 3)] = .ok (.li 1 0x2000, []) ∧
    atLi.fetch = .ok 0x02102000 atLi ∧ decode 0x02102000 = .ok (.li 1 0x2000) :=
  ⟨rfl, rfl, settled_of_no_holes rfl rfl _ _, rfl, rfl, by decide,
    fetch_of_settled (settled_of_no_holes rfl rfl _ _), by decide⟩

/-- IdleKeepsState: the reset state is idle. -/
theorem witness_idle : State.reset.inputs = [] ∧ State.reset.busy = false := by decide

/-- A running block before a push of 16 bits whose second byte is not admitted. -/
def halfBacked : State :=
  { running with bw := ⟨0x3000, 4, 0, 0⟩, holes := [⟨0x3001, 0x3001⟩], x := running.x.set 3 0xABCD }

theorem halfBacked_first : Admitted halfBacked 0x3000 1 := by
  rintro c ⟨k, hk, rfl⟩
  have : k = 0 := by omega
  subst this
  decide

/-- The slots of phase 1 at 0x4000 lie apart from a window at 0x2000. -/
theorem slots_apart (i : Nat) (hi : i < 16) : Apart (sampleAddr 0x4000 1 i) 2 0x2000 32 :=
  (apart_of_below (show (0x2000#32).toNat + 32 ≤ _ by
      show 0x2000 + 32 ≤ (0x4000#32 + BitVec.ofNat 32 (2 * (1 + 2 * i))).toNat
      rw [BitVec.toNat_add, BitVec.toNat_ofNat, BitVec.toNat_ofNat]; omega)
    (by
      show (0x4000#32 + BitVec.ofNat 32 (2 * (1 + 2 * i))).toNat + 2 ≤ 2 ^ 32
      rw [BitVec.toNat_add, BitVec.toNat_ofNat, BitVec.toNat_ofNat]; omega)).symm

/-- StuckBlockStays, the accesses of the command list and the stream: a fetch whose fourth byte is not admitted,
a refill whose first is not, a push that is stuck after its first byte. -/
theorem witness_stuck :
    (¬Admitted { running with holes := [⟨0x1003, 0x1003⟩] } 0x1000 4) ∧
    (let s : State := { running with br := ⟨0x2000, 4, 0, 0⟩, holes := [⟨0x2000, 0x2000⟩] }
     s.br.cnt.toNat < (1 : BitVec 6).toNat ∧ s.br.cnt.toNat < 11 ∧ 4 ≤ s.br.rem.toNat ∧
       ¬Admitted s s.br.ptr 4) ∧
    (16 : BitVec 6).toNat ≤ 32 ∧ StreamInv halfBacked ∧ StoreInv halfBacked ∧
    (halfBacked.bw.cnt.toNat + (16 : BitVec 6).toNat) / 8 ≤ halfBacked.bw.rem.toNat ∧
    1 < (halfBacked.bw.cnt.toNat + (16 : BitVec 6).toNat) / 8 ∧ Admitted halfBacked halfBacked.bw.ptr 1 ∧
    halfBacked.admits (halfBacked.bw.ptr + BitVec.ofNat 32 1) = false ∧
    halfBacked.busy = true ∧ halfBacked.hung = false ∧
    (after (.bwPut 3 16) halfBacked).map (fun t => (t.hung, t.past)) =
      some (true, [⟨0x3000, 0, false⟩]) ∧
    ({ running with hung := true } : State).hung = true ∧
    ({ running with hung := true } : State).inputs = [] ∧
    ({ running with hung := true, inputs := [.regWrite 4 4 1] } : State).inputs = [.regWrite 4 4 1] ∧
    (∀ kept, HostEvent.regWrite 4 4 1 ≠ .reset kept) ∧
    (stepped { running with hung := true, inputs := [.regWrite 4 4 1] }).isSome = true ∧
    ({ running with hung := true, inputs := [.reset 0] } : State).inputs = [.reset 0] :=
  ⟨not_admitted 3 (by decide) (by decide),
    ⟨by decide, by decide, by decide, not_admitted 0 (by decide) (by decide)⟩, by decide,
    ⟨by decide, by decide⟩, ⟨rfl, rfl⟩, by decide, by decide, halfBacked_first, by decide, rfl, rfl,
    by decide, rfl, rfl, rfl, fun _ => by simp, by decide, rfl⟩

/-- The codec's block with a byte that is not admitted. -/
def holed (bs : List Byte) (at' : Nat) : State := { codec bs 16 with holes := [⟨at', at'⟩] }

/-- Where the hole lies above the window, the window is settled. -/
theorem holed_settled (bs : List Byte) (at' n : Nat) (h : 0x2000 + n ≤ at') (hn : at' < 2 ^ 32) :
    Settled (holed bs at') 0x2000 n := by
  rintro c ⟨k, hk, rfl⟩
  refine ⟨?_, fun w hw => absurd hw (List.not_mem_nil)⟩
  have : (0x2000 + BitVec.ofNat 32 k : Word).toNat = 0x2000 + k := by
    show (0x2000#32 + BitVec.ofNat 32 k).toNat = 0x2000 + k
    rw [BitVec.toNat_add, BitVec.toNat_ofNat, BitVec.toNat_ofNat]; omega
  simp only [State.admits, holed, List.all_cons, List.all_nil, Bool.and_true]
  rw [Bool.not_eq_true', Bool.and_eq_false_iff]
  exact .inl (by rw [decide_eq_false_iff_not]; omega)

/-- StuckBlockStays, DC.DPH: the phase DP-a, whose third slot is not admitted. -/
theorem witness_stuck_dph :
    let s := holed phaseA 0x400A
    s.tcValid = true ∧ StreamInv s ∧ StoreInv s ∧ phaseMin s.stream ≤ phaseMax s.stream ∧
    phaseBits s.stream ≤ s.available ∧ Settled s s.br.ptr (4 * (s.br.rem.toNat / 4)) ∧
    (∀ i, i < 16 → Apart (sampleAddr (s.getX 1) (1 : Phase).val i) 2 s.br.ptr (4 * (s.br.rem.toNat / 4))) ∧
    ∃ i, i < 16 ∧ ¬Admitted s (sampleAddr (s.getX 1) (1 : Phase).val i) 2 :=
  ⟨rfl, ⟨by decide, by decide⟩, ⟨(codec_storeInv phaseA 16).1, rfl⟩,
    by decide +kernel, by decide +kernel,
    holed_settled phaseA 0x400A 32 (by decide) (by decide), slots_apart, 2, by decide,
    not_admitted 0 (by decide) (by decide)⟩

/-- StuckBlockStays, the other codec commands: the source's first word, or the first sample of a phase, is not
admitted; and the geometry is legal. -/
theorem witness_stuck_codec :
    let s : State := { holed phaseA 0x2000 with gHeight := 1, gSrclen := 32 }
    s.tcValid = true ∧ s.gWidth.toNat ≠ 0 ∧ s.gWidth.toNat % 32 = 0 ∧ ¬Admitted s (s.getX 2) 4 ∧
    0 < s.gHeight.toNat ∧ (s.gStride.toNat = 0 ∨ s.gWidth.toNat ≤ s.gStride.toNat) ∧
    (s.gHeight.toNat - 1) * (if s.gStride.toNat = 0 then s.gWidth.toNat else s.gStride.toNat) +
      s.gWidth.toNat ≤ s.gSrclen.toNat ∧
    ∃ i, i < 16 ∧ ¬Admitted s (sampleAddr (s.getX 2) (0 : Phase).val i) 2 :=
  ⟨rfl, by decide, by decide, not_admitted 0 (by decide) (by decide), by decide, by decide, by decide,
    0, by decide, not_admitted 0 (by decide) (by decide)⟩

/-! ### Witnesses: control, reader and writer -/

/-- CsrrReads: a running block meets the control invariant. -/
theorem witness_control : ControlInv running ∧ running.busy = true :=
  ⟨⟨by decide, by decide, by decide, by decide, by decide, by decide, by decide⟩, rfl⟩

/-- CsrwWrites: a CSR outside the three groups a command may write. -/
theorem witness_csrw : Csr.bwCnt ≠ .rng ∧ isConstant .bwCnt = false ∧ isGeometry .bwCnt = false := by decide

theorem reading_streamInv : StreamInv (reading ⟨0x2004, 4, 0x12345, 20⟩) := ⟨by decide, by decide⟩

/-- PeekCompletes, GetCompletes: a width of 0, one that is just buffered, and one above it with exactly one
refill word left. -/
theorem witness_reader :
    let s := reading ⟨0x2004, 4, 0x12345, 20⟩
    StreamInv s ∧ (0 : BitVec 6).toNat ≤ s.br.cnt.toNat ∧ 0 < (20 : BitVec 6).toNat ∧
    (20 : BitVec 6).toNat ≤ s.br.cnt.toNat ∧ s.br.cnt.toNat < (21 : BitVec 6).toNat ∧
    s.br.cnt.toNat < (32 : BitVec 6).toNat ∧ (32 : BitVec 6).toNat ≤ 32 ∧ 4 ≤ s.br.rem.toNat ∧
    Settled s s.br.ptr 4 :=
  ⟨reading_streamInv, by decide, by decide, by decide, by decide, by decide, by decide, by decide,
    settled_of_no_holes rfl rfl _ _⟩

/-- SkipDropsBufferedBits, and READ_OVERRUN in PeekCompletes and GetCompletes: 20 bits are buffered and 3 bytes
are left. -/
theorem witness_skip_overrun :
    let s := reading ⟨0x2004, 3, 0x12345, 20⟩
    (20 : BitVec 6).toNat ≤ s.br.cnt.toNat ∧ s.br.cnt.toNat < (21 : BitVec 6).toNat ∧
    (21 : BitVec 6).toNat ≤ 32 ∧ s.br.rem.toNat < 4 := by decide

/-- ReaderRefinesStream, StreamBitsOfWindow: 20 buffered bits and one refill word make 52. -/
theorem witness_stream :
    let s := reading ⟨0x2004, 4, 0x12345, 20⟩
    StreamInv s ∧ s.available = 52 ∧ (32 : BitVec 6).toNat ≤ s.available ∧
    Settled s s.br.ptr (s.refillBytes 32) ∧
    ∃ t, exec (.brInit 1 2) { running with x := (running.x.set 1 0x2000).set 2 8 } = .next t :=
  ⟨reading_streamInv, by decide, by decide, settled_of_no_holes rfl rfl _ _, _, rfl⟩

/-- A running block with 7 pending bits and room for `room` bytes. -/
def writing (room : Word) : State := { running with bw := ⟨0x3000, room, 0x22, 7⟩ }

/-- PutCompletes: 7 pending bits and 32 more fill 4 bytes, the room exactly, or one
more than it. -/
theorem witness_put :
    StreamInv (writing 4) ∧ StoreInv (writing 4) ∧ (32 : BitVec 6).toNat ≤ 32 ∧
    ((writing 4).bw.cnt.toNat + (32 : BitVec 6).toNat) / 8 ≤ (writing 4).bw.rem.toNat ∧
    Admitted (writing 4) (writing 4).bw.ptr (((writing 4).bw.cnt.toNat + (32 : BitVec 6).toNat) / 8) ∧
    (writing 3).bw.rem.toNat < ((writing 3).bw.cnt.toNat + (32 : BitVec 6).toNat) / 8 :=
  ⟨⟨by decide, by decide⟩, ⟨rfl, rfl⟩, by decide, by decide, admitted_of_no_holes rfl _ _, by decide⟩

/-- FinReturnsEnd: nothing pending, and 7 bits pending. -/
theorem witness_fin : running.bw.cnt.toNat = 0 ∧ (writing 4).bw.cnt.toNat ≠ 0 := by decide

/-- PushThenGetReturnsFields: fields of 0, 3, 20, 9 and 32 bits fill the 8 bytes of the window. -/
theorem witness_fields :
    let s : State := { running with bw := ⟨0x3000, 8, 0, 0⟩ }
    let fs := [(7, 0), (5, 3), (0x12345678, 20), (0x1FF, 9), (0xFFFFFFFF, 32)]
    StreamInv s ∧ StoreInv s ∧ s.bw.cnt.toNat = 0 ∧ (∀ f ∈ fs, f.2 ≤ 32) ∧ fieldBits fs % 32 = 0 ∧
    fieldBits fs / 8 ≤ s.bw.rem.toNat ∧ Settled s s.bw.ptr (fieldBits fs / 8) :=
  ⟨⟨by decide, by decide⟩, ⟨rfl, rfl⟩, by decide, by decide, by decide, by decide,
    settled_of_no_holes rfl rfl _ _⟩

/-! ### Witnesses: the tone curve -/

/-- With every breakpoint at k, a code has its own number up to k and steps of 16 above. -/
theorem centerOf_one_join (k i : Nat) : centerOf ⟨k, k, k, k⟩ i = if i ≤ k then i else k + 16 * (i - k) := by
  induction i with
  | zero => simp [centerOf]
  | succ i ih =>
    have hs : segmentOf ⟨k, k, k, k⟩ (i + 1) = if k < i + 1 then 4 else 0 := by
      unfold segmentOf; split <;> simp_all
    rw [centerOf, ih, hs]
    split <;> split <;> split <;> omega

/-- A curve of one join, past the codes where its base could be negative. -/
theorem baseOf_one_join_nonneg (k i : Nat) (hk : k = 0 ∨ 9 ≤ k) : 0 ≤ baseOf ⟨k, k, k, k⟩ i := by
  unfold baseOf deltaOf
  simp only [centerOf_one_join]
  split_ifs <;> omega

theorem baseOf_zero_nondecreasing (i : Nat) :
    baseOf ⟨0, 0, 0, 0⟩ i ≤ baseOf ⟨0, 0, 0, 0⟩ (i + 1) := by
  unfold baseOf deltaOf
  simp only [centerOf_one_join]
  split_ifs <;> first | omega | contradiction

/-- CurveTriples, BuildCompletes: the reset constants are a legal set. -/
theorem witness_legal_curve :
    CodeRange ⟨0, 0, 0, 0⟩ ∧ CodeRange ⟨0, 4095, 4095, 4095⟩ ∧ Ascending ⟨0, 4095, 4095, 4095⟩ ∧
    curveOf running = ⟨0, 0, 0, 0⟩ ∧ CurveLegal (curveOf running) :=
  ⟨by decide, by decide, by decide, rfl,
    ⟨by decide, fun i _ => baseOf_one_join_nonneg 0 i (.inl rfl), fun i _ => baseOf_zero_nondecreasing i⟩⟩

/-- BuildRefusesIllegalCurve, (a): 95_test_vectors.md F-CC2; (b): F-CC1 at i = 1; (c): a join at 10, where the
base falls from 8 at code 9 to 6 at code 10. -/
theorem witness_illegal_curves :
    (¬Ascending (curveOf { running with tcBp0 := 10400, tcBp1 := 8000, tcBp2 := 12900, tcBp3 := 14100 })) ∧
    (let b := curveOf { running with tcBp0 := 4, tcBp1 := 4, tcBp2 := 4, tcBp3 := 4 }
     Ascending b ∧ baseOf b 1 < 0 ∧ ∀ m, m < 1 → 0 ≤ baseOf b m) ∧
    (let b := curveOf { running with tcBp0 := 40, tcBp1 := 40, tcBp2 := 40, tcBp3 := 40 }
     Ascending b ∧ (∀ i, i < 4096 → 0 ≤ baseOf b i) ∧ baseOf b 10 < baseOf b 9 ∧
       ∀ m, m < 9 → baseOf b m ≤ baseOf b (m + 1)) :=
  ⟨by decide, by decide, by decide,
    fun i _ => baseOf_one_join_nonneg 10 i (.inr (by decide)), by decide, by decide⟩

/-- TableBounds, CentersIncreaseAndLookUp, DithCommand, RlkCommand, CtrAndBdCommands: a built table, the
operands at the ends of their ranges, and no table. -/
theorem witness_table :
    TableInv built ∧ built.tcValid = true ∧ running.tcValid = false ∧
    ({ built with x := running.x.set 2 4095 } : State).getX 2 = 4095 ∧
    4096 ≤ (({ built with x := running.x.set 2 4096 } : State).getX 2).toNat ∧
    (({ built with x := running.x.set 2 65535 } : State).getX 2).toNat < 65536 ∧
    65536 ≤ (({ built with x := running.x.set 2 65536 } : State).getX 2).toNat ∧
    TableInv { built with x := running.x.set 2 65535 } ∧ TableInv { built with x := running.x.set 2 4095 } :=
  ⟨built_tableInv, rfl, rfl, by decide, by decide, by decide, by decide, tableInv_of rfl rfl,
    tableInv_of rfl rfl⟩

/-- A small state whose table gives index 1 the center 1: the search for it ends at 2. -/
theorem witness_lookup : IsLowerBound built 16 2 := by
  have h0 : (built.tcEntry 0).base.toNat = 0 := by decide +kernel
  have h1 : (built.tcEntry 1).base.toNat = 8 := by decide +kernel
  have h2 : (built.tcEntry 2).base.toNat = 24 := by decide +kernel
  refine ⟨by decide, fun k hk => ?_, fun _ => by omega⟩
  have : k = 0 ∨ k = 1 := by omega
  rcases this with rfl | rfl <;> omega

/-! ### Witnesses: the codec -/

/-- ShiftTable: the ends of each row of R175. -/
theorem witness_shift :
    [0, 127, 128, 255, 256, 511, 512, 1023, 1024, 2047].map residualShift =
      [0, 0, 1, 1, 2, 2, 3, 3, 4, 4] := by decide

/-- DphCompletes, DphDecodesPhase: the phase DP-a and 16 bytes of slack behind the reader, the slots 0x4000 up. -/
theorem witness_dph :
    let s := codec phaseA 16
    s.tcValid = true ∧ TableInv s ∧ StreamInv s ∧ StoreInv s ∧
    phaseMin s.stream ≤ phaseMax s.stream ∧ phaseBits s.stream ≤ s.available ∧
    Settled s s.br.ptr (s.refillBytes (phaseBits s.stream)) ∧
    (∀ i, i < 16 → Admitted s (sampleAddr (s.getX 1) (1 : Phase).val i) 2) ∧
    ∀ i, i < 16 →
      Apart (sampleAddr (s.getX 1) (1 : Phase).val i) 2 s.br.ptr (4 * (s.br.rem.toNat / 4)) :=
  ⟨rfl, codec_tableInv _ _, codec_streamInv _ _, codec_storeInv _ _, by decide +kernel,
    by decide +kernel, codec_settled _ _ _ _, fun _ _ => codec_admitted _ _ _ _, slots_apart⟩

/-- The codec's block with a window of `rem` bytes. -/
def short (rem : Word) : State := { codec phaseA 16 with br := ⟨0x2000, rem, 0, 0⟩ }

theorem short_apart (rem : Word) (h : rem.toNat ≤ 32) (i : Nat) (hi : i < 16) :
    Apart (sampleAddr ((short rem).getX 1) (1 : Phase).val i) 2 (short rem).br.ptr
      (4 * ((short rem).br.rem.toNat / 4)) := by
  intro c hc hw
  obtain ⟨k, hk, rfl⟩ := hw
  have hk : k < 4 * (rem.toNat / 4) := hk
  exact slots_apart i hi _ hc ⟨k, by omega, rfl⟩

/-- DphOverrunKeepsElements: every window of up to 32 bytes before the phase DP-a. -/
theorem witness_dph_overrun (rem : Word) (h : rem.toNat ≤ 32) :
    (short rem).tcValid = true ∧ TableInv (short rem) ∧ StreamInv (short rem) ∧ StoreInv (short rem) ∧
    Settled (short rem) (short rem).br.ptr (4 * ((short rem).br.rem.toNat / 4)) ∧
    (∀ i, i < 16 → Admitted (short rem) (sampleAddr ((short rem).getX 1) (1 : Phase).val i) 2) ∧
    ∀ i, i < 16 → Apart (sampleAddr ((short rem).getX 1) (1 : Phase).val i) 2 (short rem).br.ptr
      (4 * ((short rem).br.rem.toNat / 4)) :=
  ⟨rfl, tableInv_of rfl (show built.breakpoints = _ from rfl),
    ⟨show (0 : Nat) < 1 by decide, show (0 : Nat) < 1 by decide⟩, ⟨(codec_storeInv phaseA 16).1, rfl⟩,
    settled_of_no_holes rfl rfl _ _, fun _ _ => admitted_of_no_holes rfl _ _, short_apart rem h⟩

/-- DphOverrunKeepsElements: the window ends inside the header (3 bytes: no word), inside a residual (4 bytes) and
at the last residuals (15 bytes). -/
theorem witness_dph_overrun_ends :
    ((short 3).available < phaseBits (short 3).stream ∧ ¬22 ≤ (short 3).available) ∧
    ((short 4).available < phaseBits (short 4).stream ∧ phaseMin (short 4).stream ≤ phaseMax (short 4).stream) ∧
    (short 15).available < phaseBits (short 15).stream ∧
      phaseMin (short 15).stream ≤ phaseMax (short 15).stream :=
  ⟨⟨by decide +kernel, by decide +kernel⟩, ⟨by decide +kernel, by decide +kernel⟩, by decide +kernel,
    by decide +kernel⟩

/-- PhaseOrderFault: the header of DP-e. -/
theorem witness_phase_order :
    let s := codec [0x32, 0x20, 0x03, 0x04] 16
    s.tcValid = true ∧ StreamInv s ∧ phaseMax s.stream < phaseMin s.stream ∧ 22 ≤ s.available ∧
    Settled s s.br.ptr (s.refillBytes 22) :=
  ⟨rfl, codec_streamInv _ _, by decide +kernel, by decide +kernel, codec_settled _ _ _ _⟩

theorem witness_row_well_formed :
    RowWellFormed ((codec (phaseA ++ phaseA) 16).leValue 32 0x2000) 32 := by
  have h : ∀ p, p < 2 →
      phaseMin (rowPhase ((codec (phaseA ++ phaseA) 16).leValue 32 0x2000) p) ≤
        phaseMax (rowPhase ((codec (phaseA ++ phaseA) 16).leValue 32 0x2000) p) ∧
      phaseImax (rowPhase ((codec (phaseA ++ phaseA) 16).leValue 32 0x2000) p) ≠
        phaseImin (rowPhase ((codec (phaseA ++ phaseA) 16).leValue 32 0x2000) p) := by decide +kernel
  exact h

/-- DrowDecodesRow: the row of L1.1 at X2, the output at X1. -/
theorem witness_drow :
    let s := codec (phaseA ++ phaseA) 16
    s.tcValid = true ∧ TableInv s ∧ StoreInv s ∧ s.gWidth.toNat ≠ 0 ∧ s.gWidth.toNat % 32 = 0 ∧
    Settled s (s.getX 2) s.gWidth.toNat ∧ Admitted s (s.getX 1) (2 * s.gWidth.toNat) ∧
    Apart (s.getX 1) (2 * s.gWidth.toNat) (s.getX 2) s.gWidth.toNat ∧
    RowWellFormed (s.leValue s.gWidth.toNat (s.getX 2)) s.gWidth.toNat ∧
    s.busy = true ∧ s.fault = false ∧ s.hung = false :=
  ⟨rfl, codec_tableInv _ _, codec_storeInv _ _, by decide, by decide, codec_settled _ _ _ _,
    codec_admitted _ _ _ _,
    (apart_of_below (a := 0x2000) (n := 32) (b := 0x4000) (m := 64) (by decide) (by decide)).symm,
    witness_row_well_formed, rfl, rfl, rfl⟩

/-- The image of one row of L1.1. -/
def image (height : Word) : State :=
  { codec (phaseA ++ phaseA) 16 with gHeight := height, gSrclen := 32 }

/-- DecDecodesImage: one row in exactly the declared 32 bytes, and no row. -/
theorem witness_dec :
    (image 1).tcValid = true ∧ TableInv (image 1) ∧ StoreInv (image 1) ∧
    32 = (image 1).gWidth.toNat ∧ 1 = (image 1).gHeight.toNat ∧ 0 = (image 0).gHeight.toNat ∧
    32 = (if (image 1).gStride.toNat = 0 then 32 else (image 1).gStride.toNat) ∧
    (0 < 1 → (1 - 1) * 32 + 32 ≤ (image 1).gSrclen.toNat) ∧
    (0 < (image 1).gHeight.toNat → ((image 1).gHeight.toNat - 1) * 32 + 32 ≤ (image 1).gSrclen.toNat) ∧
    Admitted (image 1) ((image 1).getX 1) (2 * 32 * 1) ∧
    (image 1).busy = true ∧ (image 1).fault = false ∧ (image 1).hung = false ∧
    ∀ r, r < 1 →
      Settled (image 1) ((image 1).getX 2 + BitVec.ofNat 32 (r * 32)) 32 ∧
      Apart ((image 1).getX 1) (2 * 32 * 1) ((image 1).getX 2 + BitVec.ofNat 32 (r * 32)) 32 ∧
      RowWellFormed ((image 1).leValue 32 ((image 1).getX 2 + BitVec.ofNat 32 (r * 32))) 32 := by
  refine ⟨rfl, tableInv_of rfl rfl, ⟨(codec_storeInv (phaseA ++ phaseA) 16).1, rfl⟩, by decide, by decide, by decide,
    by decide, by decide, by decide, admitted_of_no_holes rfl _ _, rfl, rfl, rfl, fun r hr => ?_⟩
  have : r = 0 := by omega
  subst this
  exact ⟨settled_of_no_holes rfl rfl _ _,
    (apart_of_below (a := 0x2000) (n := 32) (b := 0x4000) (m := 64) (by decide) (by decide)).symm,
    witness_row_well_formed⟩

/-- GeometryRefused: widths 0 and 40; a stride of 31 under the width 32; two rows in 63 bytes. -/
theorem witness_geometry :
    built.tcValid = true ∧ built.gWidth.toNat = 0 ∧
    ({ built with gWidth := 40 } : State).gWidth.toNat % 32 ≠ 0 ∧
    (31 = if ({ built with gWidth := 32, gStride := 31 } : State).gStride.toNat = 0 then 32 else 31) ∧
    (31 : Nat) < 32 ∧ (63 : Nat) < (2 - 1) * 32 + 32 ∧
    (({ built with gWidth := 32, gHeight := 2, gSrclen := 63 } : State).gSrclen.toNat <
      (({ built with gWidth := 32, gHeight := 2, gSrclen := 63 } : State).gHeight.toNat - 1) * 32 + 32) := by
  decide

/-- ScanFindsFirstExtremes, PhaseRoundTripOfCodes: 16 codes, all equal, and with both ends of the range. -/
theorem witness_codes :
    (List.replicate 16 500).length = 16 ∧ (∀ c ∈ List.replicate 16 500, c ≤ 2047) ∧
    (0 :: 2047 :: List.replicate 14 7).length = 16 ∧ (∀ c ∈ 0 :: 2047 :: List.replicate 14 7, c ≤ 2047) ∧
    (headOf (List.replicate 16 500)).mn = (headOf (List.replicate 16 500)).mx ∧
    (headOf (0 :: 2047 :: List.replicate 14 7)).mn < (headOf (0 :: 2047 :: List.replicate 14 7)).mx := by
  decide

/-- EphEncodesPhase, EphOverrunKeepsPushes: a window of exactly 16 bytes, and one of 15. -/
theorem witness_eph :
    (codec [] 16).tcValid = true ∧ StreamInv (codec [] 16) ∧ StoreInv (codec [] 16) ∧
    16 ≤ (codec [] 16).bw.rem.toNat ∧ Admitted (codec [] 16) (codec [] 16).bw.ptr 16 ∧
    (∀ i, i < 16 → Settled (codec [] 16) (sampleAddr ((codec [] 16).getX 2) (0 : Phase).val i) 2) ∧
    (codec [] 15).tcValid = true ∧ StreamInv (codec [] 15) ∧ StoreInv (codec [] 15) ∧
    (codec [] 15).bw.rem.toNat < 16 ∧
    Admitted (codec [] 15) (codec [] 15).bw.ptr (codec [] 15).bw.rem.toNat ∧
    ∀ i, i < 16 → Settled (codec [] 15) (sampleAddr ((codec [] 15).getX 2) (0 : Phase).val i) 2 :=
  ⟨rfl, codec_streamInv _ _, codec_storeInv _ _, by decide, codec_admitted _ _ _ _,
    fun _ _ => codec_settled _ _ _ _, rfl, codec_streamInv _ _, codec_storeInv _ _, by decide,
    codec_admitted _ _ _ _, fun _ _ => codec_settled _ _ _ _⟩

/-- ErowEncodesRow, EncEncodesImage: a row of width 32 at X2 into X1, apart; one row and none. -/
theorem witness_erow :
    (image 1).tcValid = true ∧ StoreInv (image 1) ∧ 32 = (image 1).gWidth.toNat ∧
    1 = (image 1).gHeight.toNat ∧ 0 = (image 0).gHeight.toNat ∧
    Settled (image 1) ((image 1).getX 2) (2 * 32 * 1) ∧ Admitted (image 1) ((image 1).getX 1) (32 * 1) ∧
    (image 1).busy = true ∧ (image 1).fault = false ∧ (image 1).hung = false ∧
    Apart ((image 1).getX 1) (32 * 1) ((image 1).getX 2) (2 * 32 * 1) :=
  ⟨rfl, ⟨(codec_storeInv (phaseA ++ phaseA) 16).1, rfl⟩, by decide, by decide, by decide,
    settled_of_no_holes rfl rfl _ _, admitted_of_no_holes rfl _ _, rfl, rfl, rfl,
    (apart_of_below (a := 0x2000) (n := 64) (b := 0x4000) (m := 32) (by decide) (by decide)).symm⟩

/-! ### Witnesses: memory, the whole machine, the host -/

/-- MemoryAccess: four bytes across the top of the address space, all admitted; and the second not. -/
theorem witness_memory :
    StoreInv running ∧ Settled running 0xFFFFFFFE 4 ∧ Admitted running 0xFFFFFFFE 4 ∧
    (¬Admitted halfBacked 0x3000 4) ∧ Admitted halfBacked 0x3000 1 ∧
    halfBacked.admits (0x3000 + BitVec.ofNat 32 1) = false ∧ StoreInv halfBacked :=
  ⟨⟨rfl, rfl⟩, settled_of_no_holes rfl rfl _ _, admitted_of_no_holes rfl _ _,
    not_admitted 1 (by decide) (by decide), halfBacked_first, by decide, ⟨rfl, rfl⟩⟩

/-- CommandPointerMoves, FaultEntry, OnlyNamedCommandsChange, TableValidity: a running block, a command that
faults, one that completes, a reader of the table without one. -/
theorem witness_whole :
    running.busy = true ∧ running.fault = false ∧ running.hung = false ∧ running.writesLeft = none ∧
    (after (.brSkip 1) running).map (·.fault) = some true ∧
    (after .nop running).map (·.fault) = some false ∧ readsTable (.dcEnc 0 0) = true ∧
    running.tcValid = false ∧ isConstant .tcBp3 = true ∧ State.reset.busy = false ∧
    HostEvent.reset 0 ≠ .seq ∧ (∃ t, hostStep (.reset 0) running = .next t) :=
  ⟨rfl, rfl, rfl, rfl, by decide, by decide, rfl, rfl, rfl, rfl, by decide, ⟨_, rfl⟩⟩

/-- The four invariants of a step: the reset state meets each and a step answers a next state; so does a
running block with a built table. -/
theorem witness_invariants :
    (∃ t, step State.reset = .next t) ∧ (∃ t, step built = .next t) ∧ ControlInv built ∧ StreamInv built ∧
    TableInv built ∧ StoreInv built :=
  ⟨⟨_, rfl⟩, ⟨_, rfl⟩,
    ⟨by decide, by decide, by decide, by decide, by decide, by decide, by decide⟩,
    ⟨by decide, by decide⟩, built_tableInv, ⟨rfl, rfl⟩⟩

/-- GoStartsRun: an idle block in the fault state, both enables as the word carries them. -/
theorem witness_go :
    let s : State := { State.reset with fault := true, ieFault := true, mmioBase := 0x8000,
                                        inputs := [.regWrite 0x8004 4 5] }
    s.inputs = .regWrite (s.mmioBase + 4) 4 5 :: [] ∧ s.busy = false ∧ (5#32).getLsbD 0 = true ∧
    (5#32).getLsbD 1 = s.ieDone ∧ (5#32).getLsbD 2 = s.ieFault ∧ ({ s with busy := true } : State).busy = true := by
  decide

/-- IdleHostReads, IdleHostWrites, BusyHostAccesses: the offsets 0x2C (no register), 0xAC (the last CSR), 0x100 (X0),
0x13C (X15), 0x140 and 0x1FC (reserved), idle and busy. -/
theorem witness_window :
    (∀ off ∈ [0x2C, 0xAC, 0x100, 0x13C, 0x140, 0x1FC], off < 512 ∧ off % 4 = 0) ∧
    0xAC = 4 * (csrNum .gSrclen).toNat ∧ 0x13C = 0x100 + 4 * (15 : Reg).val ∧
    (∀ c ∈ [Csr.id, .gSrclen, .tcBp0], 0x2C ≠ 4 * (csrNum c).toNat) ∧
    ({ State.reset with inputs := [.regRead (0 + 0xAC) 4] } : State).inputs =
      .regRead (State.reset.mmioBase + 0xAC) 4 :: [] ∧
    ({ running with inputs := [.regWrite (0 + 0x1FC) 4 1] } : State).inputs =
      .regWrite (running.mmioBase + 0x1FC) 4 1 :: [] ∧ running.busy = true ∧ ControlInv running :=
  ⟨by decide, by decide, by decide, by decide, by decide, by decide, rfl, witness_control.1⟩

/-- A running block before a host read of the byte 0x3000, which the host, or the block, has written during the
run. -/
def rewritten (byHost : Bool) : State := { running.storeByte byHost 0x3000 0xAA with inputs := [.memRead 0x3000] }

/-- HostMemoryAccesses: idle, busy at a byte nothing has written in the run, at one the host has and at one the
block has, a byte that is not backed, an access of the wrong width in the window, one that reaches into it from below, and one that ends
below it. -/
theorem witness_host_memory :
    StoreInv State.reset ∧ State.reset.busy = false ∧ State.reset.admits 0x3001 = true ∧
    StoreInv running ∧ running.busy = true ∧ running.admits 0x3000 = true ∧ (∀ w ∈ running.past, w.addr ≠ 0x3000) ∧
    Settled running 0x3004 4 ∧ (¬InRange 0x3004 4 0x3000) ∧
    (let t := running.storeByte true 0x3000 0xAA; (memRead 0x3000 1 t).final.draws = 1) ∧
    (rewritten true).inputs = [.memRead 0x3000] ∧ (rewritten true).busy = true ∧
    (∀ w ∈ (rewritten true).past, w.addr = 0x3000 → w.byHost = true) ∧
    (rewritten false).inputs = [.memRead 0x3000] ∧ (rewritten false).busy = true ∧
    (∃ w ∈ (rewritten false).past, w.addr = 0x3000 ∧ w.byHost = false) ∧
    halfBacked.admits 0x3001 = false ∧
    (0x8001 < 0x8000 + 512 ∧ 0x8000 < 0x8001 + 1) ∧ (0x7FFE < 0x8000 + 512 ∧ 0x8000 < 0x7FFE + 4) ∧
    0x7FFC + 4 ≤ 0x8000 :=
  ⟨⟨rfl, rfl⟩, rfl, by decide, ⟨rfl, rfl⟩, rfl, by decide, by decide, settled_of_no_holes rfl rfl _ _,
    (by
      rintro ⟨k, hk, h⟩
      have : k = 0 ∨ k = 1 ∨ k = 2 ∨ k = 3 := by omega
      rcases this with rfl | rfl | rfl | rfl <;> exact absurd h (by decide)),
    by decide, rfl, rfl, by decide, rfl, rfl, by decide, by decide, by decide, by decide, by decide⟩

/-- ResetInput: idle, stuck, during a run before its first byte write, and between the two bytes of a push, the
second of which the run alone would have written. -/
theorem witness_reset :
    ({ State.reset with inputs := [.reset 3] } : State).inputs = [.reset 3] ∧ State.reset.busy = false ∧
    ({ running with hung := true, inputs := [.reset 3] } : State).hung = true ∧
    ({ halfBacked with inputs := [.reset 0] } : State).busy = true ∧
    (let s := { withBytes running 0x1000 [0x10, 0, 0x03, 0x19] with
        x := running.x.set 3 0xABCD, bw := ⟨0x3000, 3, 0, 0⟩ }
     StoreInv s ∧ (stepped s).map (·.past) = some ([⟨0x3001, 0, false⟩, ⟨0x3000, 0, false⟩] ++ s.past)) :=
  ⟨rfl, rfl, rfl, rfl, ⟨by decide, rfl⟩, by decide⟩

end Sys2Proof.Tests
end

section
/-!
SUPPORT and the statements about the machine's state (10_state.md): what every step keeps of the bit reader and the
bit writer (StepKeepsStreamInv), who sets and clears TC_VALID (TableValidity), the values after reset (ResetValues).
Before them stand the rules they share: a command as its work and its end, the walk through the commands for any
property their primitives keep, the moves of the sequencer, and what a host access keeps.
-/

namespace Sys2Proof.Machine

/-! ### A command is its work and its end -/

/-- What a command does before it ends: every meaning but STOP's is `conclude` of this (40_control.md R100). -/
def commandWork (i : Instr) (s : State) : Res Unit :=
  match i with
  | .nop | .stop => .ok () s
  | .li rd imm => .ok () (s.setX rd (imm.setWidth 32))
  | .lui rd imm => .ok () (s.setX rd ((imm.setWidth 32 <<< 16) ||| (s.getX rd &&& 0xFFFF#32)))
  | .csrr rd c => .ok () (s.setX rd (s.readCsr c))
  | .csrw c rs =>
    match s.writeCsr c (s.getX rs) with
    | some t => .ok () t
    | none => .raise .csrAccess ((csrNum c).setWidth 32) s
  | .brInit ra rl => .ok () (s.openReader (s.getX ra) (s.getX rl))
  | .brPeek rd n => withCount i n s ((peek n.toNat s).bind fun v t => .ok () (t.setX rd v))
  | .brGet rd n => withCount i n s ((getBits n.toNat s).bind fun v t => .ok () (t.setX rd v))
  | .brSkip n => withCount i n s (consume n.toNat s)
  | .bwInit ra rl => .ok () (s.openWriter (s.getX ra) (s.getX rl))
  | .bwPut rs n => withCount i n s (push (s.getX rs).toNat n.toNat s)
  | .bwFin rd => (finish s).bind fun v t => .ok () (t.setX rd v)
  | .tcBuild =>
    match buildTable s.breakpoints with
    | .ok table => .ok () { s with tc := table, tcValid := true }
    | .error info => .raise .curveConfig info s
  | .tcDith rd rs =>
    (requireTable s).bind fun _ s => (requireBelow 4096 (s.getX rs) s).bind fun _ s =>
      (dither (s.getX rs).toNat s).bind fun p t => .ok () (t.setX rd (p.setWidth 32))
  | .tcRlk rd rs =>
    (requireTable s).bind fun _ s => (requireBelow 65536 (s.getX rs) s).bind fun _ s =>
      .ok () (s.setX rd (BitVec.ofNat 32 (reverseLookup s.tc (s.getX rs).toNat)))
  | .tcCtr rd rs =>
    (requireTable s).bind fun _ s => (requireBelow 4096 (s.getX rs) s).bind fun _ s =>
      .ok () (s.setX rd ((s.tcEntry (s.getX rs).toNat).center.setWidth 32))
  | .tcBd rd rs =>
    (requireTable s).bind fun _ s => (requireBelow 4096 (s.getX rs) s).bind fun _ s =>
      .ok () (s.setX rd ((s.tcEntry (s.getX rs).toNat).base.setWidth 32 |||
        ((s.tcEntry (s.getX rs).toNat).delta.setWidth 32 <<< 16)))
  | .dcDph ra j => (requireTable s).bind fun _ s => decodePhase (s.getX ra) j.val s
  | .dcEph ra j => (requireTable s).bind fun _ s => encodePhase (s.getX ra) j.val s
  | .dcDrow ra rb => (requireTable s).bind fun _ s => (checkWidth s).bind fun w s =>
      decodeRow (s.getX ra) (s.getX rb) w s
  | .dcErow ra rb => (requireTable s).bind fun _ s => (checkWidth s).bind fun w s =>
      encodeRow (s.getX ra) (s.getX rb) w s
  | .dcDec ra rb => (requireTable s).bind fun _ s => (checkDecodeGeometry s).bind fun w s =>
      decodeImage (s.getX ra) (s.getX rb) w s.rowStride s.gHeight.toNat s
  | .dcEnc ra rb => (requireTable s).bind fun _ s => (checkWidth s).bind fun w s =>
      encodeImage (s.getX ra) (s.getX rb) w s.gHeight.toNat s

theorem exec_stop (s : State) : exec .stop s = .next s.stopRun := rfl

theorem exec_of_ne_stop {i : Instr} (h : i ≠ .stop) (s : State) :
    exec i s = conclude (commandWork i s) := by
  cases i with
  | stop => exact absurd rfl h
  | _ => rfl

/-- Alike but for what the end of a command writes: CP, CMD_COUNT, the STATUS bits but TC_VALID, the fault registers
and the stuck condition. -/
def SameButEnd (s t : State) : Prop :=
  t = { s with cp := t.cp, cmdCount := t.cmdCount, busy := t.busy, done := t.done, fault := t.fault,
               faultCode := t.faultCode, faultInfo := t.faultInfo, hung := t.hung }

/-- However a command ends, its end leaves what its work left. -/
theorem exec_sameButEnd {i : Instr} {s t : State} (h : exec i s = .next t) :
    SameButEnd (commandWork i s).final t := by
  by_cases hi : i = .stop
  · subst hi
    cases h
    rfl
  · rw [exec_of_ne_stop hi] at h
    rcases conclude_cases h with ⟨u, hu, rfl⟩ | ⟨c, info, u, hu, rfl⟩ | ⟨u, hu, rfl⟩ <;> rw [hu] <;> rfl

/-! ### The walk through the commands -/

/-- The primitives the commands are made of keep P, with the bit counts a legal word can carry. -/
structure PrimitivesKeep (P : State → Prop) : Prop where
  reg : ∀ {s} r v, P s → P (s.setX r v)
  seed : ∀ {s} v, P s → P { s with rng := v }
  reader : ∀ {s} ptr rem, P s → P (s.openReader ptr rem)
  writer : ∀ {s} ptr rem, P s → P (s.openWriter ptr rem)
  load : ∀ {s} a n, P s → P (memRead a n s).final
  store : ∀ {s} n a v, P s → P (memWrite n a v s).final
  peeked : ∀ {s n}, n ≤ 32 → P s → P (peek n s).final
  consumed : ∀ {s n}, n ≤ 32 → P s → P (consume n s).final
  pushed : ∀ {s} v n, P s → P (push v n s).final

section walk
variable {P : State → Prop} {s : State}

theorem getBits_keeps (hP : PrimitivesKeep P) {n : Nat} (hn : n ≤ 32) (h : P s) : P (getBits n s).final := by
  unfold getBits
  split
  · exact h
  · exact Res.final_bind_of (hP.peeked hn h) fun _ _ _ ht =>
      Res.final_bind_of (hP.consumed hn ht) fun _ _ _ hu => hu

theorem elementCode_keeps (hP : PrimitivesKeep P) (hd : PhaseHead) (i : Nat) (h : P s) :
    P (elementCode hd i s).final := by
  unfold elementCode
  split
  · exact h
  · split
    · exact h
    · exact Res.final_bind_of (getBits_keeps hP (by decide) h) fun _ _ _ ht => ht

theorem decodeElement_keeps (hP : PrimitivesKeep P) (dst : Word) (j : Nat) (hd : PhaseHead) (i : Nat) (h : P s) :
    P (decodeElement dst j hd i s).final :=
  Res.final_bind_of (elementCode_keeps hP hd i h) fun _ _ _ ht => hP.store _ _ _ (hP.seed _ ht)

theorem readHead_keeps (hP : PrimitivesKeep P) (h : P s) : P (readHead s).final := by
  unfold readHead
  refine Res.final_bind_of (getBits_keeps hP (by decide) h) fun _ _ _ ht => ?_
  refine Res.final_bind_of (getBits_keeps hP (by decide) ht) fun _ _ _ hu => ?_
  split
  · exact hu
  · exact Res.final_bind_of (getBits_keeps hP (by decide) hu) fun _ _ _ hv =>
      Res.final_bind_of (getBits_keeps hP (by decide) hv) fun _ _ _ hw => hw

theorem decodePhase_keeps (hP : PrimitivesKeep P) (dst : Word) (j : Nat) (h : P s) :
    P (decodePhase dst j s).final :=
  Res.final_bind_of (readHead_keeps hP h) fun hd t _ ht =>
    forRange_final (fun i _ hu => decodeElement_keeps hP dst j hd i hu) 16 0 t ht

theorem decodeRow_keeps (hP : PrimitivesKeep P) (dst src : Word) (w : Nat) (h : P s) :
    P (decodeRow dst src w s).final :=
  Res.final_bind_of (hP.peeked (by decide) (hP.reader _ _ h)) fun seed _ _ ht =>
    forRange_final (fun _ u hu => forRange_final (fun j _ hv => decodePhase_keeps hP _ j hv) 2 0 u hu) _ 0 _
      (hP.seed seed ht)

theorem decodeImage_keeps (hP : PrimitivesKeep P) (dst src : Word) (w stride height : Nat) (h : P s) :
    P (decodeImage dst src w stride height s).final :=
  forRange_final (fun _ _ hu => decodeRow_keeps hP _ _ w hu) height 0 s h

theorem readCodes_keeps (hP : PrimitivesKeep P) (src : Word) (j n i : Nat) (h : P s) :
    P (readCodes src j n i s).final := by
  induction n generalizing i s with
  | zero => exact h
  | succ n ih =>
    exact Res.final_bind_of (hP.load _ _ h) fun _ _ _ ht => Res.final_bind_of (ih (i + 1) ht) fun _ _ _ hu => hu

theorem pushAll_keeps (hP : PrimitivesKeep P) (fs : List (Nat × Nat)) (h : P s) : P (pushAll fs s).final := by
  induction fs generalizing s with
  | nil => exact h
  | cons f fs ih => exact Res.final_bind_of (hP.pushed f.1 f.2 h) fun _ _ _ ht => ih ht

theorem encodePhase_keeps (hP : PrimitivesKeep P) (src : Word) (j : Nat) (h : P s) :
    P (encodePhase src j s).final :=
  Res.final_bind_of (readCodes_keeps hP src j 16 0 h) fun _ _ _ ht => pushAll_keeps hP _ ht

theorem finish_keeps (h : P s) : P (finish s).final := by rwa [finish_final]

theorem encodeRow_keeps (hP : PrimitivesKeep P) (dst src : Word) (w : Nat) (h : P s) :
    P (encodeRow dst src w s).final :=
  Res.final_bind_of
    (forRange_final (fun _ u hu => forRange_final (fun j _ hv => encodePhase_keeps hP _ j hv) 2 0 u hu) _ 0 _
      (hP.writer _ _ h))
    fun _ _ _ ht => Res.final_bind_of (finish_keeps ht) fun _ _ _ hu => hu

theorem encodeImage_keeps (hP : PrimitivesKeep P) (dst src : Word) (w height : Nat) (h : P s) :
    P (encodeImage dst src w height s).final :=
  forRange_final (fun _ _ hu => encodeRow_keeps hP _ _ w hu) height 0 s h

/-- The check of a bit count has no effect, and past it the count is at most 32. -/
theorem withCount_keeps {i : Instr} {n : BitVec 6} {r : Res Unit} (h : P s) (hr : n.toNat ≤ 32 → P r.final) :
    P (withCount i n s r).final := by
  unfold withCount
  split
  · next hn => exact hr (of_decide_eq_true hn)
  · exact h

/-- What a reader of the table does keeps P if what comes after the check of TC_VALID does. -/
theorem requireTable_bind_keeps {f : Unit → State → Res Unit} (h : P s) (hf : ∀ t, P t → P (f () t).final) :
    P ((requireTable s).bind f).final :=
  Res.final_bind_of (by rwa [requireTable_final]) fun _ t _ ht => hf t ht

/-- The same of a command on the table with an operand below `limit`. -/
theorem tableOperand_keeps {limit : Nat} {rs : Reg} {f : State → Res Unit} (h : P s)
    (hf : ∀ t, P t → P (f t).final) :
    P ((requireTable s).bind fun _ s => (requireBelow limit (s.getX rs) s).bind fun _ s => f s).final :=
  requireTable_bind_keeps h fun _ ht => Res.final_bind_of (by rwa [requireBelow_final]) fun _ u _ hu => hf u hu

/-- A property the primitives keep is kept by the work of every command; what CSRW and TC.BUILD write is left to the
hypotheses `csrw` and `build`. -/
theorem commandWork_keeps (hP : PrimitivesKeep P) (i : Instr) (h : P s)
    (csrw : ∀ c rs, i = .csrw c rs → ∀ t, s.writeCsr c (s.getX rs) = some t → P t)
    (build : i = .tcBuild → ∀ table, buildTable s.breakpoints = .ok table →
      P { s with tc := table, tcValid := true }) :
    P (commandWork i s).final := by
  cases i with
  | nop => exact h
  | stop => exact h
  | li rd imm => exact hP.reg _ _ h
  | lui rd imm => exact hP.reg _ _ h
  | csrr rd c => exact hP.reg _ _ h
  | csrw c rs =>
    simp only [commandWork]
    split
    · next t ht => exact csrw c rs rfl t ht
    · exact h
  | brInit ra rl => exact hP.reader _ _ h
  | brPeek rd n =>
    exact withCount_keeps h fun hn => Res.final_bind_of (hP.peeked hn h) fun _ _ _ ht => hP.reg _ _ ht
  | brGet rd n =>
    exact withCount_keeps h fun hn => Res.final_bind_of (getBits_keeps hP hn h) fun _ _ _ ht => hP.reg _ _ ht
  | brSkip n => exact withCount_keeps h fun hn => hP.consumed hn h
  | bwInit ra rl => exact hP.writer _ _ h
  | bwPut rs n => exact withCount_keeps h fun _ => hP.pushed _ _ h
  | bwFin rd => exact Res.final_bind_of (finish_keeps h) fun _ _ _ ht => hP.reg _ _ ht
  | tcBuild =>
    simp only [commandWork]
    split
    · next table ht => exact build rfl table ht
    · exact h
  | tcDith rd rs => exact tableOperand_keeps h fun _ ht => hP.reg _ _ (hP.seed _ ht)
  | tcRlk rd rs => exact tableOperand_keeps h fun _ ht => hP.reg _ _ ht
  | tcCtr rd rs => exact tableOperand_keeps h fun _ ht => hP.reg _ _ ht
  | tcBd rd rs => exact tableOperand_keeps h fun _ ht => hP.reg _ _ ht
  | dcDph ra j => exact requireTable_bind_keeps h fun _ ht => decodePhase_keeps hP _ _ ht
  | dcEph ra j => exact requireTable_bind_keeps h fun _ ht => encodePhase_keeps hP _ _ ht
  | dcDrow ra rb =>
    exact requireTable_bind_keeps h fun _ ht => Res.final_bind_of (by rwa [checkWidth_final]) fun _ _ _ hu =>
      decodeRow_keeps hP _ _ _ hu
  | dcErow ra rb =>
    exact requireTable_bind_keeps h fun _ ht => Res.final_bind_of (by rwa [checkWidth_final]) fun _ _ _ hu =>
      encodeRow_keeps hP _ _ _ hu
  | dcDec ra rb =>
    exact requireTable_bind_keeps h fun _ ht => Res.final_bind_of (by rwa [checkDecodeGeometry_final])
      fun _ _ _ hu => decodeImage_keeps hP _ _ _ _ _ hu
  | dcEnc ra rb =>
    exact requireTable_bind_keeps h fun _ ht => Res.final_bind_of (by rwa [checkWidth_final]) fun _ _ _ hu =>
      encodeImage_keeps hP _ _ _ _ hu

end walk

/-! ### What the primitives leave of the reader, the writer and the curve -/

theorem SameButDraws.busy {s t : State} (h : SameButDraws s t) : t.busy = s.busy := by rw [h]
theorem SameButDraws.hung {s t : State} (h : SameButDraws s t) : t.hung = s.hung := by rw [h]
theorem SameButDecode.bw {s t : State} (h : SameButDecode s t) : t.bw = s.bw := by rw [h]
theorem SameButEncode.br {s t : State} (h : SameButEncode s t) : t.br = s.br := by rw [h]
theorem SameButEnd.br {s t : State} (h : SameButEnd s t) : t.br = s.br := by rw [h]
theorem SameButEnd.bw {s t : State} (h : SameButEnd s t) : t.bw = s.bw := by rw [h]

/-- The leftover bits of a push fit the new count (43_bit_writer.md R161). -/
theorem pushRest_ok {w : BitWriter} (h : WriterOk w) (v n : Nat) (ptr rem : Word) :
    WriterOk ⟨ptr, rem, BitVec.ofNat 8 (pushAcc w v n >>> (8 * pushBytes w n)),
      BitVec.ofNat 3 (w.cnt.toNat + n - 8 * pushBytes w n)⟩ := by
  obtain ⟨k, hk, hlt⟩ : ∃ k, w.cnt.toNat + n = 8 * pushBytes w n + k ∧ k < 8 :=
    ⟨(w.cnt.toNat + n) % 8, by unfold pushBytes; omega, by omega⟩
  have hcnt : w.cnt.toNat + n - 8 * pushBytes w n = k := by omega
  have hacc : pushAcc w v n >>> (8 * pushBytes w n) < 2 ^ k := by
    rw [Nat.shiftRight_eq_div_pow]
    apply Nat.div_lt_of_lt_mul
    rw [← Nat.pow_add, ← hk]
    exact pushAcc_lt h v n
  have h8 : 2 ^ k ≤ 2 ^ 8 := Nat.pow_le_pow_right (by decide) (by omega)
  show (BitVec.ofNat 8 _).toNat < 2 ^ (BitVec.ofNat 3 _).toNat
  rw [hcnt, BitVec.toNat_ofNat, BitVec.toNat_ofNat, Nat.mod_eq_of_lt (lt_of_lt_of_le hacc h8),
    Nat.mod_eq_of_lt (show k < 2 ^ 3 by omega)]
  exact hacc

/-- Emitting bytes moves the window only; the accumulator and its count wait for the end of the push. -/
theorem emitBytes_writerOk (n acc : Nat) {s : State} (h : WriterOk s.bw) : WriterOk (emitBytes n acc s).final.bw := by
  induction n generalizing acc s with
  | zero => exact h
  | succ n ih =>
    have hm := (memWrite_same 1 s.bw.ptr (acc &&& 0xFF) s).decode.bw
    exact Res.final_bind_of (P := fun t => WriterOk t.bw) (by rwa [hm]) fun _ t _ ht => ih (acc >>> 8) ht

theorem push_writerOk (v n : Nat) {s : State} (h : WriterOk s.bw) : WriterOk (push v n s).final.bw := by
  unfold push
  split
  · exact h
  · exact Res.final_bind_of (P := fun t => WriterOk t.bw) (emitBytes_writerOk _ _ h) fun _ t _ _ =>
      pushRest_ok h v n _ _

/-! ### What a write of a CSR leaves -/

/-- What a write of a CSR and every host access keep: the reader, the writer, the table, the stuck condition,
the platform and the schedule (10_state.md R47, R48). -/
def SameUnits (s t : State) : Prop :=
  t = { t with br := s.br, bw := s.bw, tc := s.tc, hung := s.hung, holes := s.holes, mmioBase := s.mmioBase,
               writesLeft := s.writesLeft, inputs := s.inputs }

theorem SameUnits.br {s t : State} (h : SameUnits s t) : t.br = s.br := by rw [h]
theorem SameUnits.bw {s t : State} (h : SameUnits s t) : t.bw = s.bw := by rw [h]
theorem SameUnits.tc {s t : State} (h : SameUnits s t) : t.tc = s.tc := by rw [h]

/-- A CSR that a command may write is RNG, a TC_BPn or a geometry register (40_control.md R106). -/
theorem writeCsr_sameUnits {s t : State} {c : Csr} {v : Word} (h : s.writeCsr c v = some t) : SameUnits s t := by
  cases c <;> cases h <;> rfl

/-! ### The bits above the counts -/

/-- The invariant speaks of the reader and the writer only. -/
theorem StreamInv.congr {s t : State} (h : StreamInv s) (hr : t.br = s.br) (hw : t.bw = s.bw) : StreamInv t :=
  ⟨hr ▸ h.reader, hw ▸ h.writer⟩

theorem StreamInv.of_readerOk {s t : State} (h : StreamInv s) (hs : SameButReader s t) (hr : ReaderOk t.br) :
    StreamInv t :=
  ⟨hr, by rw [hs.decode.bw]; exact h.writer⟩

theorem StreamInv.of_writerOk {s t : State} (h : StreamInv s) (hs : SameButEncode s t) (hw : WriterOk t.bw) :
    StreamInv t :=
  ⟨by rw [hs.br]; exact h.reader, hw⟩

theorem primitivesKeep_streamInv : PrimitivesKeep StreamInv where
  reg _ _ h := h.congr rfl rfl
  seed _ h := h.congr rfl rfl
  reader _ _ h := ⟨Nat.one_pos, h.writer⟩
  writer _ _ h := ⟨h.reader, Nat.one_pos⟩
  load a n h := h.congr (memRead_same a n _).encode.br (memRead_same a n _).reader.decode.bw
  store n a v h := h.congr (memWrite_same n a v _).encode.br (memWrite_same n a v _).decode.bw
  peeked hn h := h.of_readerOk (peek_same _ _) (peek_ok hn h.reader)
  consumed hn h := h.of_readerOk (consume_same _ _) (consume_ok hn h.reader)
  pushed v n h := h.of_writerOk (push_same v n _) (push_writerOk v n h.writer)

theorem exec_streamInv {i : Instr} {s t : State} (h : StreamInv s) (he : exec i s = .next t) : StreamInv t := by
  have hw : StreamInv (commandWork i s).final :=
    commandWork_keeps primitivesKeep_streamInv i h
      (fun _ _ _ _ hu => h.congr (writeCsr_sameUnits hu).br (writeCsr_sameUnits hu).bw)
      (fun _ _ _ => h.congr rfl rfl)
  exact hw.congr (exec_sameButEnd he).br (exec_sameButEnd he).bw

/-! ### The moves of the sequencer -/

/-- A fetch makes draws only, however it ends. -/
theorem fetch_same (s : State) : SameButDraws s s.fetch.final :=
  Res.final_bind (R := SameButDraws) SameButDraws.trans (memRead_same _ _ s) fun _ _ _ => SameButDraws.rfl

/-- Everything one move of the sequencer can do (40_control.md R100): nothing while idle or stuck; else the fetch
is stuck, the word is illegal, or its command is executed. -/
theorem seqStep_cases {s t : State} (h : seqStep s = .next t) :
    ((s.busy = false ∨ s.hung = true) ∧ t = s) ∨
    (s.busy = true ∧ s.hung = false ∧
      ((∃ u, s.fetch = .stuck u ∧ t = u.hang) ∨
       ∃ w u, s.fetch = .ok w u ∧
        ((∃ e, decode w = .error e ∧ t = u.enterFault .illegalCommand w) ∨
         ∃ i, decode w = .ok i ∧ exec i u = .next t))) := by
  unfold seqStep at h
  split at h
  · next hidle =>
    cases h
    exact .inl ⟨by simpa using hidle, rfl⟩
  · next hrun =>
    refine .inr ⟨by simp_all, by simp_all, ?_⟩
    split at h
    · next u hf => cases h; exact .inl ⟨u, hf, rfl⟩
    · next c info u hf =>
      rcases Res.bind_eq_raise.1 hf with hr | ⟨_, _, _, hr⟩
      · exact absurd hr (memRead_ne_raise _ _ _ _ _ _)
      · simp at hr
    · next w u hf =>
      refine .inr ⟨w, u, hf, ?_⟩
      split at h
      · next e hd => cases h; exact .inl ⟨e, hd, rfl⟩
      · next i hd => exact .inr ⟨i, hd, h⟩

/-- A property that draws, the stuck condition, an illegal word and every command keep is kept by every move of the
sequencer. -/
theorem seqStep_keeps {P : State → Prop} {s t : State} (h : P s) (hs : seqStep s = .next t)
    (draws : ∀ u, SameButDraws s u → P u)
    (hang : ∀ u, u.busy = true → P u → P u.hang)
    (illegal : ∀ w u, u.busy = true → P u → P (u.enterFault .illegalCommand w))
    (command : ∀ i u, u.busy = true → u.hung = false → P u → exec i u = .next t → P t) : P t := by
  have hd := fetch_same s
  rcases seqStep_cases hs with ⟨_, rfl⟩ | ⟨hb, hh, ⟨u, hf, rfl⟩ | ⟨w, u, hf, ⟨e, _, rfl⟩ | ⟨i, _, he⟩⟩⟩
  · exact h
  all_goals
    rw [hf] at hd
    have hbu : u.busy = true := hd.busy.trans hb
  · exact hang u hbu (draws u hd)
  · exact illegal w u hbu (draws u hd)
  · exact command i u hbu (hd.hung.trans hh) (draws u hd) he

/-! ### Host accesses -/

theorem hostWriteCsr_sameUnits (s : State) (c : Csr) (v : Word) : SameUnits s (s.hostWriteCsr c v) := by
  cases c with
  | ctrl => simp only [State.hostWriteCsr]; split <;> rfl
  | _ => rfl

theorem busyWriteCsr_sameUnits (s : State) (c : Csr) (v : Word) : SameUnits s (s.busyWriteCsr c v) := by
  cases c <;> rfl

theorem hostWrite_sameUnits (s : State) (off : Nat) (v : Word) : SameUnits s (s.hostWrite off v) := by
  unfold State.hostWrite
  split
  · split
    · exact busyWriteCsr_sameUnits s _ v
    · exact hostWriteCsr_sameUnits s _ v
  · split <;> rfl
  · rfl

/-- A host read of a register changes what the host got and may make a draw. -/
theorem hostRead_cases (s : State) (off : Nat) :
    s.hostRead off = s.hostGetsAny ∨ ∃ v, s.hostRead off = s.hostGets v := by
  unfold State.hostRead
  split
  · split
    · exact .inl rfl
    · exact .inr ⟨_, rfl⟩
  · split
    · exact .inl rfl
    · exact .inr ⟨_, rfl⟩
  · exact .inr ⟨_, rfl⟩

/-- A host read of memory changes what the host got and may make a draw. -/
theorem hostLoad_cases (s : State) (a : Word) :
    (∃ v, s.hostLoad a = s.drawn.hostGets v) ∨ ∃ v, s.hostLoad a = s.hostGets v := by
  unfold State.hostLoad
  split
  · exact .inl ⟨_, rfl⟩
  · exact .inr ⟨_, rfl⟩

/-- A host write of memory changes that byte, with its record while busy. -/
theorem hostStore_cases (s : State) (a : Word) (b : Byte) :
    s.hostStore a b = s.storeByte true a b ∨ s.hostStore a b = { s with mem := s.mem.write a.toNat b } := by
  unfold State.hostStore
  split
  · exact .inl rfl
  · exact .inr rfl

/-- Everything a host register access can do: an aligned one in the window has its effect, one outside has none. -/
theorem windowAccess_cases {s t : State} {addr size : Nat} {act : Nat → State}
    (h : s.windowAccess addr size act = .next t) :
    (∃ off, addr = s.mmioBase + off ∧ off < 512 ∧ off % 4 = 0 ∧ size = 4 ∧ t = act off) ∨ t = s := by
  unfold State.windowAccess State.windowOffset at h
  by_cases hin : s.mmioBase ≤ addr ∧ addr < s.mmioBase + 512
  · simp only [hin, and_self, if_true] at h
    split at h
    · next hok => cases h; exact .inl ⟨addr - s.mmioBase, by omega, by omega, hok.2, hok.1, rfl⟩
    · cases h
  · simp only [hin, if_false] at h
    split at h
    · cases h
    · cases h; exact .inr rfl

/-- An aligned 32-bit access to the window has its effect. -/
theorem windowAccess_aligned (s : State) {off : Nat} (act : Nat → State) (hlt : off < 512) (hal : off % 4 = 0) :
    s.windowAccess (s.mmioBase + off) 4 act = .next (act off) := by
  simp [State.windowAccess, State.windowOffset, hlt, hal]

theorem memoryAccess_cases {s t u : State} {a : Word} (h : s.memoryAccess a u = .next t) :
    s.admits a = true ∧ t = u := by
  unfold State.memoryAccess at h
  split at h
  · next ha => cases h; exact ⟨ha, rfl⟩
  · cases h

theorem hostStep_sameUnits {e : HostEvent} {s t : State} (hq : e ≠ .seq) (hr : ∀ kept, e ≠ .reset kept)
    (h : hostStep e s = .next t) : SameUnits s t := by
  cases e with
  | seq => exact absurd rfl hq
  | regWrite addr size v =>
    rcases windowAccess_cases h with ⟨off, _, _, _, _, rfl⟩ | rfl
    · exact hostWrite_sameUnits s off v
    · rfl
  | regRead addr size =>
    rcases windowAccess_cases h with ⟨off, _, _, _, _, rfl⟩ | rfl
    · rcases hostRead_cases s off with hg | ⟨v, hg⟩ <;> rw [hg] <;> rfl
    · rfl
  | memWrite a b =>
    obtain ⟨_, rfl⟩ := memoryAccess_cases h
    rcases hostStore_cases s a b with hg | hg <;> rw [hg] <;> rfl
  | memRead a =>
    obtain ⟨_, rfl⟩ := memoryAccess_cases h
    rcases hostLoad_cases s a with ⟨v, hg⟩ | ⟨v, hg⟩ <;> rw [hg] <;> rfl
  | reset kept => exact absurd rfl (hr kept)

/-- What a move of the sequencer keeps is kept by every step, if taking an event off the schedule, the host's
accesses and the reset input keep it. -/
theorem step_keeps {P : State → Prop} {s t : State} (h : P s) (hs : step s = .next t)
    (inputs : ∀ l, P { s with inputs := l })
    (seq : ∀ u, P u → seqStep u = .next t → P t)
    (host : ∀ e u, e ≠ .seq → (∀ kept, e ≠ .reset kept) → P u → hostStep e u = .next t → P t)
    (reset : ∀ u cut : State, P (u.resetWith cut)) : P t := by
  unfold step machineStep at hs
  split at hs
  · exact seq s h hs
  · next e rest _ =>
    cases e with
    | seq => exact seq _ (inputs rest) hs
    | reset kept => cases hs; exact reset _ _
    | regWrite | regRead | memWrite | memRead => exact host _ _ (by simp) (by simp) (inputs rest) hs

theorem seqStep_streamInv {s t : State} (h : StreamInv s) (hs : seqStep s = .next t) : StreamInv t :=
  seqStep_keeps h hs
    (draws := fun _ hd => h.congr hd.encode.br hd.reader.decode.bw)
    (hang := fun _ _ hu => hu.congr rfl rfl)
    (illegal := fun _ _ _ hu => hu.congr rfl rfl)
    (command := fun _ _ _ _ hu he => exec_streamInv hu he)

/-- Settles O50: the primitives keep the reader's and the writer's bits, so every command does; the host's accesses
touch neither unit, and reset empties both. -/
theorem stepKeepsStreamInv : Obligations.StepKeepsStreamInv := by
  unfold Obligations.StepKeepsStreamInv
  intro s t h hs
  exact step_keeps h hs
    (inputs := fun _ => h.congr rfl rfl)
    (seq := fun _ hu hq => seqStep_streamInv hu hq)
    (host := fun _ _ hq hr hu he =>
      hu.congr (hostStep_sameUnits hq hr he).br (hostStep_sameUnits hq hr he).bw)
    (reset := fun _ _ => ⟨Nat.one_pos, Nat.one_pos⟩)

/-! ### The curve and TC_VALID under commands -/

theorem SameCurve.of_eq {s t : State}
    (h : (t.tcBp0, t.tcBp1, t.tcBp2, t.tcBp3, t.tc, t.tcValid) =
      (s.tcBp0, s.tcBp1, s.tcBp2, s.tcBp3, s.tc, s.tcValid)) :
    SameCurve s t := by
  simp only [Prod.mk.injEq] at h
  obtain ⟨h0, h1, h2, h3, htc, hv⟩ := h
  exact ⟨⟨h0, h1, h2, h3⟩, htc, hv⟩

theorem SameCurve.trans {s t u : State} (h : SameCurve s t) (k : SameCurve t u) : SameCurve s u where
  constants := ⟨k.constants.bp0.trans h.constants.bp0, k.constants.bp1.trans h.constants.bp1,
    k.constants.bp2.trans h.constants.bp2, k.constants.bp3.trans h.constants.bp3⟩
  table := k.table.trans h.table
  valid := k.valid.trans h.valid

theorem SameButDecode.curve {s t : State} (h : SameButDecode s t) : SameCurve s t := by rw [h]; exact .of_eq (Eq.refl _)
theorem SameButEncode.curve {s t : State} (h : SameButEncode s t) : SameCurve s t := by rw [h]; exact .of_eq (Eq.refl _)
theorem SameButEnd.curve {s t : State} (h : SameButEnd s t) : SameCurve s t := by rw [h]; exact .of_eq (Eq.refl _)

theorem primitivesKeep_sameCurve (s : State) : PrimitivesKeep (SameCurve s) where
  reg _ _ h := h.trans (.of_eq rfl)
  seed _ h := h.trans (.of_eq rfl)
  reader _ _ h := h.trans (.of_eq rfl)
  writer _ _ h := h.trans (.of_eq rfl)
  load a n h := h.trans (memRead_same a n _).encode.curve
  store n a v h := h.trans (memWrite_same n a v _).encode.curve
  peeked _ h := h.trans (peek_same _ _).decode.curve
  consumed _ h := h.trans (consume_same _ _).decode.curve
  pushed v n h := h.trans (push_same v n _).curve

/-- Writing a CSR other than the constants leaves the curve. -/
theorem writeCsr_sameCurve {s t : State} {c : Csr} {v : Word} (hc : isConstant c = false)
    (h : s.writeCsr c v = some t) : SameCurve s t := by
  cases c with
  | tcBp0 | tcBp1 | tcBp2 | tcBp3 => cases hc
  | _ => cases h <;> exact .of_eq rfl

/-- Writing a constant clears TC_VALID and leaves the table (10_state.md R39, R42). -/
theorem writeCsr_constant {c : Csr} (hc : isConstant c = true) (s : State) (v : Word) :
    ∃ t, s.writeCsr c v = some t ∧ t.tcValid = false ∧ t.tc = s.tc := by
  cases c with
  | tcBp0 | tcBp1 | tcBp2 | tcBp3 => exact ⟨_, rfl, rfl, rfl⟩
  | _ => cases hc

/-- No command but TC.BUILD and a CSRW of a constant touches the curve. -/
theorem exec_sameCurve {i : Instr} {s t : State} (hb : i ≠ .tcBuild)
    (hc : ∀ c rs, i = .csrw c rs → isConstant c = false) (h : exec i s = .next t) : SameCurve s t :=
  (commandWork_keeps (primitivesKeep_sameCurve s) i (.of_eq rfl)
    (fun c rs hi _ ht => writeCsr_sameCurve (hc c rs hi) ht)
    (fun hi => absurd hi hb)).trans (exec_sameButEnd h).curve

/-- TC.BUILD completes and sets TC_VALID, or leaves the curve (41_tone_curve.md R130). -/
theorem exec_tcBuild_cases {s t : State} (h : exec .tcBuild s = .next t) : t.tcValid = true ∨ SameCurve s t := by
  have hend := (exec_sameButEnd h).curve
  simp only [commandWork] at hend
  split at hend
  · exact .inl hend.valid
  · exact .inr hend

/-- CSRW of a constant completes, clears TC_VALID and leaves the table. -/
theorem exec_csrw_constant {c : Csr} (hc : isConstant c = true) (rs : Reg) (s : State) :
    ∃ t, exec (.csrw c rs) s = .next t ∧ t.tcValid = false ∧ t.tc = s.tc := by
  obtain ⟨u, hu, hv, htc⟩ := writeCsr_constant hc s (s.getX rs)
  refine ⟨u.retire, ?_, hv, htc⟩
  rw [exec_of_ne_stop (by simp)]
  simp [commandWork, hu]

/-- What a command can do to the curve. -/
theorem exec_curve_cases {i : Instr} {s t : State} (h : exec i s = .next t) :
    SameCurve s t ∨ (i = .tcBuild ∧ t.tcValid = true) ∨
      ((∃ c rs, i = .csrw c rs ∧ isConstant c = true) ∧ t.tcValid = false ∧ t.tc = s.tc) := by
  by_cases hb : i = .tcBuild
  · subst hb
    rcases exec_tcBuild_cases h with hv | hs
    · exact .inr (.inl ⟨rfl, hv⟩)
    · exact .inl hs
  · by_cases hc : ∃ c rs, i = .csrw c rs ∧ isConstant c = true
    · obtain ⟨c, rs, rfl, hk⟩ := hc
      obtain ⟨u, hu, hv, htc⟩ := exec_csrw_constant hk rs s
      cases hu.symm.trans h
      exact .inr (.inr ⟨⟨c, rs, rfl, hk⟩, hv, htc⟩)
    · exact .inl (exec_sameCurve hb (fun c rs hi => by simpa using fun hk => hc ⟨c, rs, hi, hk⟩) h)

theorem requireTable_of_invalid {s : State} (h : s.tcValid = false) :
    requireTable s = .raise .tableNotBuilt 0#32 s := by
  simp [requireTable, h]

/-- Every reader of the table first checks TC_VALID (10_state.md R42). -/
theorem commandWork_of_readsTable {i : Instr} (h : readsTable i = true) (s : State) :
    ∃ f, commandWork i s = (requireTable s).bind f := by
  cases i with
  | tcDith | tcRlk | tcCtr | tcBd | dcDph | dcEph | dcDrow | dcErow | dcDec | dcEnc => exact ⟨_, rfl⟩
  | _ => simp [readsTable] at h

theorem exec_tableNotBuilt {i : Instr} {s : State} (hi : readsTable i = true) (hv : s.tcValid = false) :
    exec i s = .next (s.faulted 6 0) := by
  have hne : i ≠ .stop := by rintro rfl; simp [readsTable] at hi
  obtain ⟨f, hf⟩ := commandWork_of_readsTable hi s
  rw [exec_of_ne_stop hne, hf, requireTable_of_invalid hv]
  rfl

/-! ### The constants in the host window -/

/-- The number of a CSR names it, and no other number does (10_state.md R27). -/
theorem csrOfNum_eq_some {n : Nat} {c : Csr} : csrOfNum n = some c ↔ n = (csrNum c).toNat := by
  constructor
  · intro h
    unfold csrOfNum at h
    split at h <;> simp only [Option.some.injEq, reduceCtorEq] at h <;> subst h <;> rfl
  · rintro rfl
    cases c <;> rfl

theorem csrNum_lt (c : Csr) : (csrNum c).toNat < 0x40 := by
  cases c <;> decide

/-- The aligned offset of a CSR is four times its number (10_state.md R46). -/
theorem windowReg_eq_csr {off : Nat} {c : Csr} (hal : off % 4 = 0) :
    windowReg off = .csr c ↔ off = 4 * (csrNum c).toNat := by
  have hlt := csrNum_lt c
  constructor
  · intro h
    unfold windowReg at h
    split at h
    · split at h
      · next d hd =>
        cases h
        have := csrOfNum_eq_some.1 hd
        omega
      · cases h
    · split at h <;> cases h
  · rintro rfl
    have hd : csrOfNum (4 * (csrNum c).toNat / 4) = some c := csrOfNum_eq_some.2 (by omega)
    simp only [windowReg, hd]
    rw [if_pos (by omega)]

/-- An idle host write to a CSR clears TC_VALID exactly where it writes a constant. -/
theorem hostWriteCsr_tcValid (s : State) (c : Csr) (v : Word) :
    (s.hostWriteCsr c v).tcValid = (s.tcValid && !isConstant c) := by
  cases c with
  | ctrl => simp only [State.hostWriteCsr]; split <;> simp [isConstant]
  | _ => simp [State.hostWriteCsr, State.writeCsr, State.writeStatus, isConstant]

theorem busyWriteCsr_tcValid (s : State) (c : Csr) (v : Word) : (s.busyWriteCsr c v).tcValid = s.tcValid := by
  cases c <;> rfl

/-- A host write to the window leaves TC_VALID, or it is an idle one to a constant and clears it. -/
theorem hostWrite_tcValid_cases (s : State) {off : Nat} (v : Word) (hal : off % 4 = 0) :
    (s.hostWrite off v).tcValid = s.tcValid ∨
      (s.hostWrite off v).tcValid = false ∧ s.busy = false ∧
        ∃ c, isConstant c = true ∧ off = 4 * (csrNum c).toNat := by
  unfold State.hostWrite
  split
  · next c hw =>
    split
    · exact .inl (busyWriteCsr_tcValid s c v)
    · next hidle =>
      rw [hostWriteCsr_tcValid]
      cases hc : isConstant c
      · exact .inl (by simp)
      · exact .inr ⟨by simp, by simpa using hidle, c, hc, (windowReg_eq_csr hal).1 hw⟩
  · split <;> exact .inl rfl
  · exact .inl rfl

/-- An idle host write to a constant clears TC_VALID and leaves the table (10_state.md R39, R42). -/
theorem hostStep_write_constant {c : Csr} {s : State} (v : Word) (hc : isConstant c = true) (hidle : s.busy = false) :
    ∃ t, hostStep (.regWrite (s.mmioBase + 4 * (csrNum c).toNat) 4 v) s = .next t ∧ t.tcValid = false ∧
      t.tc = s.tc := by
  have hlt := csrNum_lt c
  have hreg : windowReg (4 * (csrNum c).toNat) = .csr c := (windowReg_eq_csr (by omega)).2 rfl
  refine ⟨s.hostWrite (4 * (csrNum c).toNat) v, windowAccess_aligned s _ (by omega) (by omega), ?_,
    (hostWrite_sameUnits s _ v).tc⟩
  simp [State.hostWrite, hreg, hidle, hostWriteCsr_tcValid, hc]

/-- What an event of the schedule can do to TC_VALID (10_state.md R42): keep it, or clear it by the reset input or
by an idle write to a constant. -/
theorem hostStep_tcValid_cases {e : HostEvent} {s t : State} (hq : e ≠ .seq) (h : hostStep e s = .next t) :
    t.tcValid = s.tcValid ∨
      t.tcValid = false ∧ ((∃ kept, e = .reset kept) ∨ s.busy = false ∧ ∃ c v, isConstant c = true ∧
        e = .regWrite (s.mmioBase + 4 * (csrNum c).toNat) 4 v) := by
  cases e with
  | seq => exact absurd rfl hq
  | regWrite addr size v =>
    rcases windowAccess_cases h with ⟨off, rfl, _, hal, rfl, rfl⟩ | rfl
    · rcases hostWrite_tcValid_cases s v hal with hk | ⟨hv, hidle, c, hc, rfl⟩
      · exact .inl hk
      · exact .inr ⟨hv, .inr ⟨hidle, c, v, hc, rfl⟩⟩
    · exact .inl rfl
  | regRead addr size =>
    rcases windowAccess_cases h with ⟨off, _, _, _, _, rfl⟩ | rfl
    · rcases hostRead_cases s off with hg | ⟨v, hg⟩ <;> rw [hg] <;> exact .inl rfl
    · exact .inl rfl
  | memWrite a b =>
    obtain ⟨_, rfl⟩ := memoryAccess_cases h
    rcases hostStore_cases s a b with hg | hg <;> rw [hg] <;> exact .inl rfl
  | memRead a =>
    obtain ⟨_, rfl⟩ := memoryAccess_cases h
    rcases hostLoad_cases s a with ⟨v, hg⟩ | ⟨v, hg⟩ <;> rw [hg] <;> exact .inl rfl
  | reset kept =>
    cases h
    exact .inr ⟨rfl, .inl ⟨kept, rfl⟩⟩

/-- Settles O48: by what commands and events can do to the curve and to TC_VALID. -/
theorem tableValidity : Obligations.TableValidity := by
  unfold Obligations.TableValidity
  refine ⟨fun i s t h => ?_, fun c rs s hc => exec_csrw_constant hc rs s,
    fun i s hi hv => exec_tableNotBuilt hi hv, fun e s t hq h => ?_, fun kept s t h => ?_,
    fun c v s hc hidle => hostStep_write_constant v hc hidle⟩
  · rcases exec_curve_cases h with hs | ⟨hb, hv⟩ | ⟨hc, hv, htc⟩
    · exact ⟨fun hne => absurd hs.table hne, fun ht => .inl (hs.valid ▸ ht), fun ht => .inl (hs.valid ▸ ht)⟩
    · exact ⟨fun _ => hb, fun _ => .inr hb, fun ht => by simp [hv] at ht⟩
    · exact ⟨fun hne => absurd htc hne, fun ht => by simp [hv] at ht, fun _ => .inr hc⟩
  · rcases hostStep_tcValid_cases hq h with hk | ⟨hv, hcause⟩
    · exact ⟨fun ht => hk ▸ ht, fun ht => .inl (hk ▸ ht)⟩
    · exact ⟨fun ht => by simp [hv] at ht, fun _ => .inr hcause⟩
  · cases h
    rfl

/-! ### Reset -/

/-- Settles O53: the reset state holds each value by computation. -/
theorem resetValues : Obligations.ResetValues := by
  unfold Obligations.ResetValues
  refine ⟨fun r => ?_, fun c hc => ?_, rfl, rfl⟩
  · simp [State.getX, State.reset]
  · cases c with
    | id => exact absurd rfl hc
    | _ => rfl

end Sys2Proof.Machine
end

section
/-!
SUPPORT and the statement about memory accesses (20_memory.md R61, R63, R67): MemoryAccess.
Before it stand the rules it needs of a read and of a write: a read completes only where every byte is admitted, a
write stores its admitted first bytes and goes on with the rest, and what the bytes of a little-endian store read as.
-/

namespace Sys2Proof.Machine

/-! ### Ranges -/

/-- The bytes after the first of a range are numbered from the second. -/
theorem add_one_add_ofNat (a : Word) (k : Nat) : a + 1 + BitVec.ofNat 32 k = a + BitVec.ofNat 32 (k + 1) := by
  rw [BitVec.add_assoc, Nat.add_comm k 1, BitVec.ofNat_add]
  rfl

/-- A range within the address space does not come round to its first byte again. -/
theorem not_inRange_add_one {a : Word} {n : Nat} (hn : n < 2 ^ 32) : ¬InRange (a + 1) n a := by
  rintro ⟨k, hk, h⟩
  have := congrArg BitVec.toNat h
  rw [add_one_add_ofNat, BitVec.toNat_add, BitVec.toNat_ofNat] at this
  omega

theorem admitted_succ {s : State} {a : Word} {n : Nat} :
    Admitted s a (n + 1) ↔ s.admits a = true ∧ Admitted s (a + 1) n := by
  simp [Admitted, inRange_succ, or_imp, forall_and]

/-! ### Reads -/

/-- A draw leaves what the platform admits. -/
theorem SameButDraws.admits {s t : State} (h : SameButDraws s t) (a : Word) : t.admits a = s.admits a := by
  rw [h]
  rfl

/-- A read completes only where every byte is admitted. -/
theorem admitted_of_memRead_ok {n : Nat} {a : Word} {v : Nat} {s t : State} (h : memRead a n s = .ok v t) :
    Admitted s a n := by
  induction n generalizing a v s t with
  | zero => exact fun c ⟨k, hk, _⟩ => absurd hk (Nat.not_lt_zero k)
  | succ n ih =>
    unfold memRead at h
    split at h
    · next ha =>
      obtain ⟨high, u, hu, -⟩ := Res.bind_eq_ok.1 h
      exact admitted_succ.2 ⟨ha, fun c hc => (s.loadByte_same a).admits c ▸ ih hu c hc⟩
    · simp at h

/-- A read of a range with a byte that is not admitted is stuck, and leaves at most draws. -/
theorem memRead_stuck_of_not_admitted {n : Nat} {a : Word} {s : State} (h : ¬Admitted s a n) :
    ∃ d, memRead a n s = .stuck { s with draws := d } := by
  have hs := memRead_same a n s
  cases hr : memRead a n s with
  | ok v t => exact absurd (admitted_of_memRead_ok hr) h
  | raise c i t => exact absurd hr (memRead_ne_raise a n s c i t)
  | stuck t =>
    rw [hr] at hs
    exact ⟨t.draws, congrArg Res.stuck hs⟩

/-! ### Little-endian stores -/

/-- A store changes no byte outside its range. -/
theorem Memory.read_writeLE_of_not_inRange {n : Nat} {m : Memory} {a : Word} {v : Nat} {c : Word}
    (h : m.wf = true) (hc : ¬InRange a n c) : (Memory.writeLE n m a v).read c.toNat = m.read c.toNat := by
  induction n generalizing m a v with
  | zero => rfl
  | succ n ih =>
    obtain ⟨hne, hrest⟩ := not_or.1 (mt inRange_succ.2 hc)
    have ha : a.toNat ≠ c.toNat := fun he => hne (BitVec.eq_of_toNat_eq he).symm
    rw [Memory.writeLE, ih (Memory.write_wf h a.isLt) hrest, Memory.read_write h, if_neg ha]

/-- Byte k of a store is byte k of the value (20_memory.md R63). -/
theorem Memory.read_writeLE_add {n : Nat} {m : Memory} {a : Word} {v k : Nat} (h : m.wf = true)
    (hn : n ≤ 2 ^ 32) (hk : k < n) :
    ((Memory.writeLE n m a v).read (a + BitVec.ofNat 32 k).toNat).toNat = v / 256 ^ k % 256 := by
  induction n generalizing m a v k with
  | zero => exact absurd hk (Nat.not_lt_zero k)
  | succ n ih =>
    have hwf := Memory.write_wf (b := BitVec.ofNat 8 v) h a.isLt
    rw [Memory.writeLE]
    cases k with
    | zero =>
      have hfirst : ¬InRange (a + 1) n (a + BitVec.ofNat 32 0) := by simpa using not_inRange_add_one (by omega)
      rw [Memory.read_writeLE_of_not_inRange hwf hfirst, Memory.read_write h]
      simp
    | succ k =>
      rw [← add_one_add_ofNat, ih hwf (by omega) (by omega), Nat.div_div_eq_div_mul, ← Nat.pow_succ']

/-! ### Writes -/

/-- The state after the block has stored the n low bytes of v from `a` up. -/
def State.storeLE (s : State) (n : Nat) (a : Word) (v : Nat) : State :=
  { s with mem := Memory.writeLE n s.mem a v, past := Memory.pastLE n s.mem s.past a v }

/-- A write whose first m bytes are admitted stores them and goes on with the others (20_memory.md R61). -/
theorem memWrite_add {m : Nat} {s : State} {a : Word} (hw : s.writesLeft = none) (h : Admitted s a m) (k v : Nat) :
    memWrite (m + k) a v s = memWrite k (a + BitVec.ofNat 32 m) (v / 256 ^ m) (s.storeLE m a v) := by
  induction m generalizing s a v with
  | zero => simp [State.storeLE, Memory.writeLE, Memory.pastLE]
  | succ m ih =>
    obtain ⟨ha, hrest⟩ := admitted_succ.1 h
    rw [Nat.succ_add, memWrite, State.writeByte_ok ha hw, ← add_one_add_ofNat, Nat.pow_succ',
      ← Nat.div_div_eq_div_mul]
    exact ih (s := s.storeByte false a (BitVec.ofNat 8 v)) hw hrest (v / 256)

/-- A write where every byte is admitted completes. -/
theorem memWrite_of_admitted {n : Nat} {s : State} {a : Word} (hw : s.writesLeft = none) (h : Admitted s a n)
    (v : Nat) : memWrite n a v s = .ok () (s.storeLE n a v) :=
  memWrite_add hw h 0 v

/-- A write whose first byte is not admitted is stuck there. -/
theorem memWrite_succ_of_not_admits {s : State} {a : Word} (h : s.admits a = false) (n v : Nat) :
    memWrite (n + 1) a v s = .stuck s := by
  simp [memWrite, State.writeByte, h]

/-- A write is stuck at the first byte that is not admitted, the bytes before it written (20_memory.md R61). -/
theorem memWrite_stuck {n m : Nat} {s : State} {a : Word} (hw : s.writesLeft = none) (hm : m < n)
    (h : Admitted s a m) (ha : s.admits (a + BitVec.ofNat 32 m) = false) (v : Nat) :
    memWrite n a v s = .stuck (s.storeLE m a v) := by
  obtain ⟨k, rfl⟩ := Nat.exists_eq_add_of_lt hm
  rw [Nat.add_assoc, memWrite_add hw h]
  exact memWrite_succ_of_not_admits (s := s.storeLE m a v) ha k _

/-- Settles O44: reads by what a completed read requires; a write, whole or cut short, is the store of its admitted
first bytes. -/
theorem memoryAccess : Obligations.MemoryAccess := by
  unfold Obligations.MemoryAccess
  rintro s a n v hn ⟨hwf, hw⟩
  have bytes (m : Nat) (hm : m ≤ 4) (k : Nat) (hk : k < m) := Memory.read_writeLE_add (v := v) (a := a) hwf
    (hm.trans (by decide)) hk
  have frame (m : Nat) (c : Word) := Memory.read_writeLE_of_not_inRange (n := m) (v := v) (a := a) (c := c) hwf
  exact ⟨memRead_of_settled n a, memRead_stuck_of_not_admitted,
    fun h => ⟨_, memWrite_of_admitted hw h v, rfl, bytes n hn, frame n⟩,
    fun m hm h ha => ⟨_, memWrite_stuck hw hm h ha v, rfl, bytes m (by omega), frame m⟩⟩

end Sys2Proof.Machine
end

section
/-!
SUPPORT and the statements about the encoding (30_encoding.md): the words of R96 (SampleWordsDecode) and the illegal
words (IllegalWordsFault).  Before them stand the fields of a word as quotients and remainders, the range of an
immediate, and the decoder's answer as the search of the opcode map that `legalWord` makes.
-/

namespace Sys2Proof

/-! ### The fields of a word (30_encoding.md R85) -/

theorem fieldsOf_op (w : Word) : (fieldsOf w).op.toNat = w.toNat / 2 ^ 24 := by
  have := w.isLt
  simp only [fieldsOf, BitVec.extractLsb'_toNat, Nat.shiftRight_eq_div_pow]
  omega

theorem fieldsOf_a (w : Word) : ((fieldsOf w).a : Nat) = w.toNat / 2 ^ 20 % 16 := by
  simp [fieldsOf, Nat.shiftRight_eq_div_pow]

theorem fieldsOf_b (w : Word) : ((fieldsOf w).b : Nat) = w.toNat / 2 ^ 16 % 16 := by
  simp [fieldsOf, Nat.shiftRight_eq_div_pow]

theorem fieldsOf_imm (w : Word) : (fieldsOf w).imm.toNat = w.toNat % 2 ^ 16 := by
  simp [fieldsOf]

end Sys2Proof

namespace Sys2Proof.Machine

/-! ### Immediates (30_encoding.md R87) -/

/-- The ranges of the defined numbers are the numbers that name a CSR (10_state.md R27, R28). -/
theorem isSome_csrOfNum (n : Nat) : (csrOfNum n).isSome = csrDefined n := by
  have below : ∀ n < 0x2C, (csrOfNum n).isSome = csrDefined n := by decide
  rcases Nat.lt_or_ge n 0x2C with hlt | hge
  · exact below n hlt
  · have hnone : csrOfNum n = none := by
      refine Option.eq_none_iff_forall_ne_some.2 fun c hc => ?_
      have hnum : (csrNum c).toNat < 0x2C := by cases c <;> decide
      have := csrOfNum_eq_some.1 hc
      omega
    have hundefined : csrDefined n = false := by
      simp only [csrDefined, Bool.or_eq_false_iff, Bool.and_eq_false_iff, decide_eq_false_iff_not]
      omega
    rw [hnone, hundefined]
    rfl

theorem immLegal_eq_immInRange (k : ImmKind) (imm : BitVec 16) : immLegal k imm = immInRange k imm.toNat := by
  cases k with
  | csr => exact isSome_csrOfNum _
  | zero => simp only [immLegal, immInRange, beq_eq_decide, BitVec.toNat_eq, BitVec.toNat_ofNat, Nat.zero_mod]
  | imm16 | n | j => rfl

/-! ### The decoder as a search of the opcode map -/

/-- The fields are a command of this row: its opcode, no nonzero field it does not use, and IMM in range
(30_encoding.md R89, R90). -/
def OpRow.admits (row : OpRow) (f : Fields) : Bool :=
  f.op.toNat = row.op && (row.usesA || f.a = 0) && (row.usesB || f.b = 0) && immLegal row.kind f.imm

/-- `legalWord` looks for a row that admits the word's fields. -/
theorem legalWord_eq_any (w : Word) : legalWord w = opMap.any fun row => row.admits (fieldsOf w) := by
  simp [legalWord, OpRow.admits, immLegal_eq_immInRange, Fin.ext_iff, fieldsOf_op, fieldsOf_a, fieldsOf_b, fieldsOf_imm]

/-- A row's checks pass on the fields it admits, and on no others. -/
theorem accept_isOk (f : Fields) (usesA usesB : Bool) (k : ImmKind) (i : Instr) :
    (accept f usesA usesB k i).isOk = ((usesA || f.a = 0) && (usesB || f.b = 0) && immLegal k f.imm) := by
  unfold accept
  split_ifs <;> simp_all [Except.isOk, Except.toBool, or_iff_not_imp_left]

/-- The decoder answers a command exactly where a row of the opcode map admits the fields: each of its 24 opcodes is
that of one row, with the same checks, and any other opcode is in no row. -/
theorem decode_isOk (w : Word) : (decode w).isOk = legalWord w := by
  rw [legalWord_eq_any]
  simp only [decode]
  generalize fieldsOf w = f
  split
  case h_25 =>
    have hnone : (opMap.any fun row => row.admits f) = false := by simp_all [opMap, OpRow.admits]
    exact hnone.symm
  all_goals next hop => simp [accept_isOk, opMap, OpRow.admits, hop]

theorem decode_eq_error_iff (w : Word) : (∃ e, decode w = .error e) ↔ legalWord w = false := by
  rw [← decode_isOk]
  cases decode w <;> simp [Except.isOk, Except.toBool]

/-! ### The obligations -/

/-- A fetched illegal word raises ILLEGAL_COMMAND with the whole word (30_encoding.md R90, 60_exceptions.md R216). -/
theorem seqStep_of_fetch_illegal {s t : State} {w : Word} {e : Illegal} (hb : s.busy = true) (hh : s.hung = false)
    (hf : s.fetch = .ok w t) (hd : decode w = .error e) : seqStep s = .next (t.faulted 1 w) := by
  simp only [seqStep, hb, hh, hf, hd]
  rfl

/-- Settles O1: the decoder evaluated on each word of the table. -/
theorem sampleWordsDecode : Obligations.SampleWordsDecode := by
  unfold Obligations.SampleWordsDecode
  decide

/-- Settles O4: the decoder answers exactly the legal words, and a fetch that completes makes draws only. -/
theorem illegalWordsFault : Obligations.IllegalWordsFault := by
  unfold Obligations.IllegalWordsFault
  refine fun w => ⟨decode_eq_error_iff w, fun s t hi hb hh hf hw => ?_⟩
  obtain ⟨e, hd⟩ := (decode_eq_error_iff w).2 hw
  have hstep : step s = seqStep s := by simp only [step, machineStep, hi]
  have hsame : SameButDraws s t := by simpa only [hf, Res.final_ok] using fetch_same s
  exact ⟨hstep.trans (seqStep_of_fetch_illegal hb hh hf hd), hsame⟩

end Sys2Proof.Machine
end

section
/-!
SUPPORT and the statements about the control commands (40_control.md): NOP and STOP (NopAndStop), LI and LUI
(LoadImmediates), CSRR (CsrrReads), CSRW (CsrwWrites).  Before them stand how a command ends whose work completed or
raised a fault, the frame of a completed command that stores no byte, and what a CSR reads and takes.
-/

namespace Sys2Proof.Machine

/-! ### The end of a command, by what its work did -/

theorem exec_of_work_ok {i : Instr} {s t : State} (hi : i ≠ .stop) (h : commandWork i s = .ok () t) :
    exec i s = .next t.retire := by
  rw [exec_of_ne_stop hi, h, conclude_ok]

theorem exec_of_work_raise {i : Instr} {s t : State} {c : FaultCode} {info : Word} (hi : i ≠ .stop)
    (h : commandWork i s = .raise c info t) : exec i s = .next (t.enterFault c info) := by
  rw [exec_of_ne_stop hi, h, conclude_raise]

/-! ### Frames of completed commands that store no byte (40_control.md R100) -/

/-- Alike but for the general registers, RNG, the reader, the writer, the curve and the geometry: what a command that
stores no byte can change before it ends. -/
def SameButRegisters (s t : State) : Prop :=
  t = { s with x := t.x, rng := t.rng, br := t.br, bw := t.bw, tcBp0 := t.tcBp0, tcBp1 := t.tcBp1,
               tcBp2 := t.tcBp2, tcBp3 := t.tcBp3, tc := t.tc, tcValid := t.tcValid, gWidth := t.gWidth,
               gHeight := t.gHeight, gStride := t.gStride, gSrclen := t.gSrclen }

/-- The frame of a completed command that stores no byte.  A part that the command leaves as it is need not be given. -/
theorem completed_of_sameButRegisters {c : MayChange} {s t : State} (h : SameButRegisters s t)
    (regs : ∀ r, r ∉ c.regs → t.getX r = s.getX r := by exact fun _ _ => rfl)
    (rng : c.rng = false → t.rng = s.rng := by exact fun _ => rfl)
    (br : c.br = false → t.br = s.br := by exact fun _ => rfl)
    (bw : c.bw = false → t.bw = s.bw := by exact fun _ => rfl)
    (curve : c.curve = false → SameCurve s t := by exact fun _ => .of_eq rfl)
    (geometry : c.geometry = false → SameGeometry s t := by exact fun _ => ⟨rfl, rfl, rfl, rfl⟩) :
    Completed c s t.retire where
  cp := by rw [h]; rfl
  cmdCount := by rw [h]; rfl
  regs := regs
  rng := rng
  br := br
  bw := bw
  curve hc := (curve hc).trans (.of_eq rfl)
  geometry hc := ⟨(geometry hc).width, (geometry hc).height, (geometry hc).stride, (geometry hc).srclen⟩
  mem _ _ := by rw [h]; rfl
  past := ⟨[], by rw [h]; rfl, fun _ hw => absurd hw List.not_mem_nil⟩
  control := by rw [h]; exact ⟨rfl, rfl, rfl, rfl, rfl, rfl, rfl, rfl, rfl⟩
  outside := by rw [h]; exact ⟨rfl, rfl, rfl, rfl, rfl⟩

theorem completed_setX (s : State) (rd : Reg) (v : Word) : Completed { regs := [rd] } s (s.setX rd v).retire :=
  completed_of_sameButRegisters rfl (regs := fun _ hr => s.getX_setX_other v (List.ne_of_not_mem_cons hr))

theorem completed_seed (s : State) (v : Word) : Completed { rng := true } s ({ s with rng := v } : State).retire :=
  completed_of_sameButRegisters rfl (rng := nofun)

theorem completed_curve (s : State) (b0 b1 b2 b3 : BitVec 16) (table : List TcEntry) (valid : Bool) :
    Completed { curve := true } s
      ({ s with tcBp0 := b0, tcBp1 := b1, tcBp2 := b2, tcBp3 := b3, tc := table, tcValid := valid } : State).retire :=
  completed_of_sameButRegisters rfl (curve := nofun)

theorem completed_geometry (s : State) (w h stride srclen : Word) :
    Completed { geometry := true } s
      ({ s with gWidth := w, gHeight := h, gStride := stride, gSrclen := srclen } : State).retire :=
  completed_of_sameButRegisters rfl (geometry := nofun)

/-- A command whose work is to write its destination register. -/
theorem exec_setX {i : Instr} {s : State} {rd : Reg} {v : Word} (hi : i ≠ .stop)
    (h : commandWork i s = .ok () (s.setX rd v)) :
    ∃ t, exec i s = .next t ∧ Completed { regs := [rd] } s t ∧ t.getX rd = v :=
  ⟨_, exec_of_work_ok hi h, completed_setX s rd v, s.getX_setX_same rd v⟩

/-! ### The values (10_state.md R27 to R40, 40_control.md R104) -/

/-- LUI puts the immediate above the kept low half. -/
theorem lui_toNat (imm : BitVec 16) (v : Word) :
    ((imm.setWidth 32 <<< 16) ||| (v &&& 0xFFFF#32)).toNat = imm.toNat * 65536 + v.toNat % 65536 := by
  have hlow : (v &&& 0xFFFF#32).toNat = v.toNat % 65536 := by
    simpa using Nat.and_two_pow_sub_one_eq_mod v.toNat 16
  have hhigh : (imm.setWidth 32 <<< 16).toNat = imm.toNat <<< 16 := by
    simp only [BitVec.toNat_shiftLeft, BitVec.toNat_setWidth, Nat.shiftLeft_eq]
    omega
  rw [BitVec.toNat_or, hhigh, hlow, ← Nat.shiftLeft_add_eq_or_of_lt (Nat.mod_lt _ (by decide)), Nat.shiftLeft_eq]

/-- A CSR is read as its rule in 10_state.md defines it: the narrow fields zero-extended, the flags at their bits, the
reader's buffer by halves. -/
theorem readCsr_toNat (s : State) (c : Csr) : (s.readCsr c).toNat = csrValue s c := by
  cases c with
  | ctrl | status =>
    simp only [State.readCsr, State.ctrlWord, State.statusWord, csrValue, BitVec.toNat_ofNat]
    have := s.ieDone.toNat_le
    have := s.ieFault.toNat_le
    have := s.busy.toNat_le
    have := s.done.toNat_le
    have := s.fault.toNat_le
    have := s.tcValid.toNat_le
    omega
  | faultCode | brCnt | bwAcc | bwCnt | tcBp0 | tcBp1 | tcBp2 | tcBp3 =>
    exact BitVec.toNat_setWidth_of_le (by decide)
  | brBufl | brBufh =>
    simp only [State.readCsr, csrValue, BitVec.extractLsb'_toNat, Nat.shiftRight_eq_div_pow]
    omega
  | _ => rfl

/-- A command may write RNG, the constants and the geometry registers only. -/
theorem writeCsr_eq_none {c : Csr} (hrng : c ≠ .rng) (hc : isConstant c = false) (hg : isGeometry c = false)
    (s : State) (v : Word) : s.writeCsr c v = none := by
  cases c with
  | rng => exact absurd rfl hrng
  | tcBp0 | tcBp1 | tcBp2 | tcBp3 => cases hc
  | gWidth | gHeight | gStride | gSrclen => cases hg
  | _ => rfl

theorem exec_csrw_of_some {c : Csr} {rs : Reg} {s t : State} (h : s.writeCsr c (s.getX rs) = some t) :
    exec (.csrw c rs) s = .next t.retire :=
  exec_of_work_ok (by simp) (by simp only [commandWork, h])

theorem exec_csrw_of_none {c : Csr} {rs : Reg} {s : State} (h : s.writeCsr c (s.getX rs) = none) :
    exec (.csrw c rs) s = .next (s.faulted 2 ((csrNum c).setWidth 32)) :=
  exec_of_work_raise (i := .csrw c rs) (t := s) (c := .csrAccess) (by simp) (by simp only [commandWork, h])

/-! ### The obligations -/

/-- Settles O9: the work of NOP is nothing, and STOP ends the run with DONE set. -/
theorem nopAndStop : Obligations.NopAndStop := by
  unfold Obligations.NopAndStop
  refine fun s => ⟨exec_of_work_ok (by simp) rfl, exec_stop s, fun t h => ?_⟩
  rw [exec_stop] at h
  cases h
  simp [State.irq]

/-- Settles O10: both write their destination; the immediate is extended, or put above the kept low half. -/
theorem loadImmediates : Obligations.LoadImmediates := by
  unfold Obligations.LoadImmediates
  intro rd imm s
  constructor
  · obtain ⟨t, he, hc, hv⟩ := exec_setX (i := .li rd imm) (s := s) (by simp) rfl
    exact ⟨t, he, hc, hv ▸ BitVec.toNat_setWidth_of_le (by decide)⟩
  · obtain ⟨t, he, hc, hv⟩ := exec_setX (i := .lui rd imm) (s := s) (by simp) rfl
    exact ⟨t, he, hc, hv ▸ lui_toNat imm (s.getX rd)⟩

/-- Settles O11: CSRR writes what the CSR reads as; the values inside a run are those of the control invariant. -/
theorem csrrReads : Obligations.CsrrReads := by
  unfold Obligations.CsrrReads
  refine ⟨fun rd c s => ?_, fun s hinv hbusy => ?_⟩
  · obtain ⟨t, he, hc, hv⟩ := exec_setX (i := .csrr rd c) (s := s) (by simp) rfl
    exact ⟨t, he, hc, hv ▸ readCsr_toNat s c⟩
  · obtain ⟨hdone, hfault, hcode, hinfo⟩ := hinv.busyClear hbusy
    refine ⟨?_, ?_, ?_, ?_⟩
    · simp [csrValue, hbusy, hdone, hfault]
    · simp [csrValue, hcode]
    · simp [csrValue, hinfo]
    · simp only [csrValue]
      omega

/-- Settles O12: a write of each CSR a command may write, with the frame of its unit; every other CSR takes no write. -/
theorem csrwWrites : Obligations.CsrwWrites := by
  unfold Obligations.CsrwWrites
  intro rs s
  have low : ((s.getX rs).setWidth 16).toNat = (s.getX rs).toNat % 65536 := BitVec.toNat_setWidth ..
  exact ⟨⟨_, exec_csrw_of_some rfl, completed_seed s _, rfl⟩,
    ⟨_, exec_csrw_of_some rfl, completed_curve s .., low, rfl, rfl, rfl, rfl, rfl⟩,
    ⟨_, exec_csrw_of_some rfl, completed_curve s .., low, rfl, rfl, rfl, rfl, rfl⟩,
    ⟨_, exec_csrw_of_some rfl, completed_curve s .., low, rfl, rfl, rfl, rfl, rfl⟩,
    ⟨_, exec_csrw_of_some rfl, completed_curve s .., low, rfl, rfl, rfl, rfl, rfl⟩,
    ⟨_, exec_csrw_of_some rfl, completed_geometry s .., rfl, rfl, rfl, rfl⟩,
    ⟨_, exec_csrw_of_some rfl, completed_geometry s .., rfl, rfl, rfl, rfl⟩,
    ⟨_, exec_csrw_of_some rfl, completed_geometry s .., rfl, rfl, rfl, rfl⟩,
    ⟨_, exec_csrw_of_some rfl, completed_geometry s .., rfl, rfl, rfl, rfl⟩,
    fun _ hrng hc hg => exec_csrw_of_none (writeCsr_eq_none hrng hc hg s _)⟩

end Sys2Proof.Machine
end

section
/-!
SUPPORT and the statements about the tone curve (41_tone_curve.md): the curve and its triples (CurveTriples), the
refusals of TC.BUILD (BuildRefusesIllegalCurve), the bounds of a built table (TableBounds), the reverse lookup
(CentersIncreaseAndLookUp), and the commands TC.DITH, TC.RLK, TC.CTR and TC.BD (DithCommand, RlkCommand,
CtrAndBdCommands).  Before them stand the model's curve and triples as lists over the codes, the legality checks as
statements about the bases, the columns of a built table, the dither as exact arithmetic, and the scan for the nearest
center.
-/

namespace Sys2Proof.Machine

/-! ### The curve, code by code (41_tone_curve.md R122) -/

/-- The codes of the half-open range (low, high], in order. -/
def codesIn (low high : Nat) : List Nat := List.range' (low + 1) (high - low)

theorem codesIn_append {low mid high : Nat} (h1 : low ≤ mid) (h2 : mid ≤ high) :
    codesIn low mid ++ codesIn mid high = codesIn low high := by
  have hmid : mid + 1 = low + 1 + (mid - low) := by omega
  have hlen : mid - low + (high - mid) = high - low := by omega
  rw [codesIn, codesIn, codesIn, hmid, List.range'_append_1, hlen]

/-- The segment of a code, by the first breakpoint that is not below it. -/
theorem segmentOf_eq {b : Breakpoints} (ha : Ascending b) (j : Nat) :
    segmentOf b j =
      if j ≤ b.bp1 then 0 else if j ≤ b.bp2 then 1 else if j ≤ b.bp3 then 2 else if j ≤ b.bp4 then 3 else 4 := by
  obtain ⟨h12, h23, h34⟩ := ha
  simp only [segmentOf, List.countP_cons, List.countP_nil, decide_eq_true_eq]
  split_ifs <;> omega

section segment
variable {b : Breakpoints} {i low : Nat}

/-- Inside one segment the curve is a line. -/
theorem centerOf_add {n : Nat} (hseg : ∀ j, low < j → j ≤ low + n → segmentOf b j = i) :
    centerOf b (low + n) = centerOf b low + n * 2 ^ i := by
  induction n with
  | zero => simp
  | succ n ih =>
    rw [← Nat.add_assoc, centerOf, ih fun j hlo hhi => hseg j hlo (by omega),
      hseg (low + n + 1) (by omega) (by omega), Nat.succ_mul, Nat.add_assoc]

/-- The inner loop adds the centers of its segment. -/
theorem ramp_eq_centers {high : Nat} (hseg : ∀ j, low < j → j ≤ high → segmentOf b j = i) :
    ramp (centerOf b low) (1 <<< i) (high - low) = (codesIn low high).map (centerOf b) := by
  rw [codesIn, List.range'_eq_map_range, List.map_map, ramp, Nat.one_shiftLeft]
  refine List.map_congr_left fun k hk => ?_
  have hk := List.mem_range.1 hk
  have hline := centerOf_add (n := k + 1) fun j hlo hhi => hseg j hlo (by omega)
  rw [← hline, Function.comp_apply, Nat.add_right_comm, Nat.add_assoc]

/-- The outer loop: one segment, then the segments after it. -/
theorem segments_eq_centers {high last : Nat} {rest : List Nat}
    (hrest : segments (i + 1) (centerOf b high) (high :: rest) = (codesIn high last).map (centerOf b))
    (hlow : low ≤ high) (hlast : high ≤ last) (hseg : ∀ j, low < j → j ≤ high → segmentOf b j = i) :
    segments i (centerOf b low) (low :: high :: rest) = (codesIn low last).map (centerOf b) := by
  have hhigh : centerOf b low + (high - low) * (1 <<< i) = centerOf b high := by
    rw [Nat.one_shiftLeft, ← centerOf_add fun j hlo hhi => hseg j hlo (by omega), Nat.add_sub_cancel' hlow]
  rw [segments, ramp_eq_centers hseg, hhigh, hrest, ← List.map_append, codesIn_append hlow hlast]

end segment

/-- The segment-by-segment curve is the one of the recurrence. -/
theorem curve_eq_centers {b : Breakpoints} (hr : CodeRange b) (ha : Ascending b) :
    curve b = (List.range 4096).map (centerOf b) := by
  have hseg := segmentOf_eq ha
  obtain ⟨hr1, hr2, hr3, hr4⟩ := hr
  obtain ⟨h12, h23, h34⟩ := ha
  have h5 : segments 5 (centerOf b 4095) [4095] = (codesIn 4095 4095).map (centerOf b) := rfl
  have h4 := segments_eq_centers h5 hr4 le_rfl fun j _ _ => by
    rw [hseg, if_neg, if_neg, if_neg, if_neg] <;> omega
  have h3 := segments_eq_centers h4 h34 hr4 fun j _ _ => by rw [hseg, if_neg, if_neg, if_neg, if_pos] <;> omega
  have h2 := segments_eq_centers h3 h23 hr3 fun j _ _ => by rw [hseg, if_neg, if_neg, if_pos] <;> omega
  have h1 := segments_eq_centers h2 h12 hr2 fun j _ _ => by rw [hseg, if_neg, if_pos] <;> omega
  have h0 := segments_eq_centers h1 (Nat.zero_le _) hr1 fun j _ _ => by rw [hseg, if_pos]; omega
  rw [curve, breakpointList]
  exact (congrArg (List.cons 0) h0).trans (by rw [List.range_eq_range', codesIn]; rfl)

/-! ### The triples (41_tone_curve.md R123, R124) -/

/-- The triple of R123 of a code. -/
def tripleAt (b : Breakpoints) (i : Nat) : Triple := ⟨centerOf b i, baseOf b i, deltaOf b i⟩

@[simp] theorem tripleAt_center (b : Breakpoints) (i : Nat) : (tripleAt b i).center = centerOf b i := rfl
@[simp] theorem tripleAt_base (b : Breakpoints) (i : Nat) : (tripleAt b i).base = baseOf b i := rfl
@[simp] theorem tripleAt_delta (b : Breakpoints) (i : Nat) : (tripleAt b i).delta = deltaOf b i := rfl

/-- A triple is that of a center, the one before it and the one after it. -/
theorem getElem?_triplesFrom (lower i : Nat) (cs : List Nat) :
    (triplesFrom lower cs)[i]? =
      cs[i]?.map fun c => tripleOf ((lower :: cs).getD i 0) c (cs.getD (i + 1) c) := by
  induction cs generalizing lower i with
  | nil => simp [triplesFrom]
  | cons c cs ih =>
    cases cs with
    | nil => cases i <;> simp [triplesFrom]
    | cons upper rest =>
      cases i with
      | zero => simp [triplesFrom]
      | succ i => rw [triplesFrom, List.getElem?_cons_succ, ih]; simp

/-- An entry of a list of values by number. -/
theorem getD_map_range {α : Type} (f : Nat → α) (n i : Nat) (d : α) :
    ((List.range n).map f).getD i d = if i < n then f i else d := by
  split <;> simp [List.getD_eq_getElem?_getD, *]

/-- The model's triples are those of the recurrence, in code order. -/
theorem triples_eq {b : Breakpoints} (hr : CodeRange b) (ha : Ascending b) :
    triples (curve b) = (List.range 4096).map (tripleAt b) := by
  have hlower (i : Nat) (hi : i < 4096) : (centerOf b 0 :: (List.range 4096).map (centerOf b)).getD i 0 =
      if 0 < i then centerOf b (i - 1) else centerOf b i := by
    cases i with
    | zero => rfl
    | succ i => rw [List.getD_cons_succ, getD_map_range, if_pos (by omega), if_pos i.succ_pos, Nat.add_sub_cancel]
  have hhead : (curve b).headD 0 = centerOf b 0 := rfl
  refine List.ext_getElem? fun i => ?_
  rw [triples, hhead, getElem?_triplesFrom, curve_eq_centers hr ha, List.getElem?_map, List.getElem?_map]
  rcases Nat.lt_or_ge i 4096 with hlt | hge
  · simp only [List.getElem?_range hlt, Option.map_some, getD_map_range, hlower i hlt, tripleOf, tripleAt, baseOf,
      deltaOf, round4, Nat.succ_lt_succ_iff]
  · simp [hge]

/-! ### The breakpoints and the legality checks (41_tone_curve.md R121, R125) -/

theorem breakpoint_eq (v : BitVec 16) : breakpoint v = v.toNat / 4 % 4096 := by
  rw [breakpoint, Nat.shiftRight_eq_div_pow]
  exact Nat.and_two_pow_sub_one_eq_mod _ 12

theorem breakpoints_eq_curveOf (s : State) : s.breakpoints = curveOf s := by
  simp only [State.breakpoints, curveOf, breakpoint_eq]

theorem codeRange_curveOf (s : State) : CodeRange (curveOf s) := by
  simp only [CodeRange, curveOf]
  omega

theorem firstDescent_eq_none {b : Breakpoints} : firstDescent b = none ↔ Ascending b := by
  unfold firstDescent
  split_ifs <;> simp <;> omega

/-- Check (a) answers the smallest k whose breakpoint is above the next one. -/
theorem firstDescent_eq_some {b : Breakpoints} {k : Nat} (h : firstDescent b = some k) :
    1 ≤ k ∧ k ≤ 3 ∧ (breakpointList b).getD (k + 1) 0 < (breakpointList b).getD k 0 ∧
      ∀ m, 1 ≤ m → m < k → (breakpointList b).getD m 0 ≤ (breakpointList b).getD (m + 1) 0 := by
  unfold firstDescent at h
  split_ifs at h with h1 h2 h3 <;> cases h
  · exact ⟨by omega, by omega, h1, fun m _ _ => by omega⟩
  · refine ⟨by omega, by omega, h2, fun m hlo hhi => ?_⟩
    obtain rfl : m = 1 := by omega
    exact Nat.not_lt.1 h1
  · refine ⟨by omega, by omega, h3, fun m hlo hhi => ?_⟩
    obtain rfl | rfl : m = 1 ∨ m = 2 := by omega
    · exact Nat.not_lt.1 h1
    · exact Nat.not_lt.1 h2

section checks
variable {b : Breakpoints} (hr : CodeRange b) (ha : Ascending b)
include hr ha

/-- Check (b) answers the smallest code whose base is negative. -/
theorem firstNegative_eq_some {i : Nat} : firstNegative (triples (curve b)) = some i ↔
    i < 4096 ∧ baseOf b i < 0 ∧ ∀ m, m < i → 0 ≤ baseOf b m := by
  rw [firstNegative, triples_eq hr ha, List.findIdx?_map, List.findIdx?_eq_some_iff_getElem]
  simp only [Function.comp_apply, decide_eq_true_eq]
  simp [and_left_comm]

theorem firstNegative_eq_none :
    firstNegative (triples (curve b)) = none ↔ ∀ i, i < 4096 → 0 ≤ baseOf b i := by
  rw [firstNegative, triples_eq hr ha, List.findIdx?_map, List.findIdx?_eq_none_iff]
  simp only [Function.comp_apply, decide_eq_false_iff_not]
  simp

/-- Each triple beside the one after it. -/
theorem zip_tail_triples : (triples (curve b)).zip (triples (curve b)).tail =
    (List.range 4095).map fun i => (tripleAt b i, tripleAt b (i + 1)) := by
  rw [triples_eq hr ha]
  refine List.ext_getElem (by simp) fun i _ _ => by simp

/-- Check (c) answers the smallest code whose base is above the next one. -/
theorem firstDrop_eq_some {i : Nat} : firstDrop (triples (curve b)) = some i ↔
    i < 4095 ∧ baseOf b (i + 1) < baseOf b i ∧ ∀ m, m < i → baseOf b m ≤ baseOf b (m + 1) := by
  rw [firstDrop, zip_tail_triples hr ha, List.findIdx?_map, List.findIdx?_eq_some_iff_getElem]
  simp only [Function.comp_apply, decide_eq_true_eq]
  simp [and_left_comm]

theorem firstDrop_eq_none :
    firstDrop (triples (curve b)) = none ↔ ∀ i, i < 4095 → baseOf b i ≤ baseOf b (i + 1) := by
  simp [firstDrop, zip_tail_triples hr ha, List.findIdx?_eq_none_iff, tripleAt]

end checks

/-- A table that is built is that of a legal set, the triple of each code stored in its entry. -/
theorem buildTable_eq_ok {b : Breakpoints} {table : List TcEntry} (hr : CodeRange b) (h : buildTable b = .ok table) :
    CurveLegal b ∧ table = (List.range 4096).map fun i => entryOf (tripleAt b i) := by
  unfold buildTable at h
  split at h
  · cases h
  · next ha =>
    have hasc := firstDescent_eq_none.1 ha
    split at h
    · cases h
    · next hb =>
      split at h
      · cases h
      · next hc =>
        cases h
        refine ⟨⟨hasc, (firstNegative_eq_none hr hasc).1 hb, (firstDrop_eq_none hr hasc).1 hc⟩, ?_⟩
        rw [triples_eq hr hasc, List.map_map]
        rfl

/-- TC.BUILD raises CURVE_CONFIG where no table is built, and nothing else changes (41_tone_curve.md R130). -/
theorem exec_tcBuild_of_error {s : State} {info : Word} (h : buildTable (curveOf s) = .error info) :
    exec .tcBuild s = .next (s.faulted 7 info) := by
  refine exec_of_work_raise (i := .tcBuild) (t := s) (c := .curveConfig) (by simp) ?_
  simp only [commandWork, breakpoints_eq_curveOf, h]

/-- The information word of checks (b) and (c): the code below the number of the check. -/
theorem ofNat_or_code (n : Nat) {i : Nat} (hi : i < 2 ^ 16) :
    BitVec.ofNat 32 (0x10000 * n) ||| BitVec.ofNat 32 i = BitVec.ofNat 32 (0x10000 * n + i) := by
  rw [← BitVec.ofNat_or]
  exact congrArg _ (Nat.two_pow_add_eq_or_of_lt hi n).symm

/-! ### The bounds of the curve (41_tone_curve.md R122, R127) -/

theorem segmentOf_le (b : Breakpoints) (j : Nat) : segmentOf b j ≤ 4 := List.countP_le_length

/-- Every step of the curve is one of 1, 2, 4, 8 and 16. -/
theorem centerOf_succ_bounds (b : Breakpoints) (j : Nat) :
    centerOf b j < centerOf b (j + 1) ∧ centerOf b (j + 1) ≤ centerOf b j + 16 := by
  have hpos : 0 < 2 ^ segmentOf b (j + 1) := Nat.two_pow_pos _
  have hle : 2 ^ segmentOf b (j + 1) ≤ 2 ^ 4 := Nat.pow_le_pow_right (by decide) (segmentOf_le b _)
  rw [centerOf]
  omega

theorem centerOf_strictMono (b : Breakpoints) : StrictMono (centerOf b) :=
  strictMono_nat_of_lt_succ fun j => (centerOf_succ_bounds b j).1

theorem centerOf_le (b : Breakpoints) (j : Nat) : centerOf b j ≤ 16 * j := by
  induction j with
  | zero => rfl
  | succ j ih =>
    have := (centerOf_succ_bounds b j).2
    omega

theorem centerOf_eq_zero {b : Breakpoints} {j : Nat} : centerOf b j = 0 ↔ j = 0 :=
  (centerOf_strictMono b).injective.eq_iff' rfl

/-- A delta is one step at the ends of the table and two inside it. -/
theorem deltaOf_le (b : Breakpoints) (i : Nat) :
    deltaOf b i ≤ 32 ∧ (i = 0 ∨ 4095 ≤ i → deltaOf b i ≤ 16) := by
  have hup := centerOf_succ_bounds b i
  cases i with
  | zero =>
    unfold deltaOf
    split_ifs <;> omega
  | succ i =>
    have hlow := centerOf_succ_bounds b i
    simp only [deltaOf, Nat.succ_pos, if_true, Nat.add_sub_cancel]
    split <;> omega

/-- Where it is not the first, a base stands Round4(delta) below its center (41_tone_curve.md R123). -/
theorem baseOf_add_round4 (b : Breakpoints) (i : Nat) :
    (i = 0 ∧ baseOf b i = 0) ∨ baseOf b i + ((deltaOf b i + 2) / 4 : Nat) = centerOf b i := by
  unfold baseOf
  split
  · next h => exact .inl ⟨centerOf_eq_zero.1 h, rfl⟩
  · exact .inr (by omega)

/-! ### The columns of a built table (41_tone_curve.md R123, R127) -/

section table
variable {s : State} (h : TableInv s) (hv : s.tcValid = true)
include h hv

theorem built_curveLegal : CurveLegal (curveOf s) :=
  (buildTable_eq_ok (codeRange_curveOf s) (breakpoints_eq_curveOf s ▸ h.current hv)).1

/-- Every entry of a built table stores the triple of its code. -/
theorem tcEntry_built {i : Nat} (hi : i < 4096) : s.tcEntry i = entryOf (tripleAt (curveOf s) i) := by
  have htable := (buildTable_eq_ok (codeRange_curveOf s) (breakpoints_eq_curveOf s ▸ h.current hv)).2
  rw [State.tcEntry, htable, getD_map_range, if_pos hi]

theorem center_built {i : Nat} (hi : i < 4096) : (s.tcEntry i).center.toNat = centerOf (curveOf s) i := by
  have hle := centerOf_le (curveOf s) i
  rw [tcEntry_built h hv hi, entryOf, tripleAt_center, BitVec.toNat_ofNat]
  omega

theorem delta_built {i : Nat} (hi : i < 4096) : (s.tcEntry i).delta.toNat = deltaOf (curveOf s) i := by
  obtain ⟨hle, -⟩ := deltaOf_le (curveOf s) i
  rw [tcEntry_built h hv hi, entryOf, tripleAt_delta, BitVec.toNat_ofNat]
  omega

theorem center_le_built {i : Nat} (hi : i < 4096) : (s.tcEntry i).center.toNat ≤ 16 * i :=
  center_built h hv hi ▸ centerOf_le _ i

theorem delta_le_built {i : Nat} (hi : i < 4096) :
    (s.tcEntry i).delta.toNat ≤ 32 ∧ (i = 0 ∨ 4095 ≤ i → (s.tcEntry i).delta.toNat ≤ 16) :=
  delta_built h hv hi ▸ deltaOf_le _ i

theorem base_built {i : Nat} (hi : i < 4096) : ((s.tcEntry i).base.toNat : Int) = baseOf (curveOf s) i := by
  have hnonneg := (built_curveLegal h hv).nonnegative i hi
  have hle := centerOf_le (curveOf s) i
  have hbase := baseOf_add_round4 (curveOf s) i
  rw [tcEntry_built h hv hi, entryOf, tripleAt_base, BitVec.toNat_ofNat]
  omega

/-- The base of an entry but the first stands Round4(delta) below its center. -/
theorem base_add_round4_built {i : Nat} (hi : i < 4096) :
    (i = 0 ∧ (s.tcEntry i).base.toNat = 0) ∨
      (s.tcEntry i).base.toNat + ((s.tcEntry i).delta.toNat + 2) / 4 = (s.tcEntry i).center.toNat := by
  have hbase := baseOf_add_round4 (curveOf s) i
  rw [← base_built h hv hi, ← delta_built h hv hi, ← center_built h hv hi] at hbase
  omega

theorem base_le_center_built {i : Nat} (hi : i < 4096) :
    (s.tcEntry i).base.toNat ≤ (s.tcEntry i).center.toNat := by
  have := base_add_round4_built h hv hi
  omega

end table

/-! ### Dither (41_tone_curve.md R126, R127) -/

theorem rngNext_le (r : Word) : rngNext r.toNat ≤ 1028965035 := by
  have := r.isLt
  unfold rngNext
  omega

theorem lcg_toNat (r : Word) : (lcg r).toNat = rngNext r.toNat := by
  have hle := rngNext_le r
  have hlow : r.toNat &&& 0xFFFF = r.toNat % 65536 := Nat.and_two_pow_sub_one_eq_mod _ 16
  rw [lcg, hlow, Nat.shiftRight_eq_div_pow, BitVec.toNat_ofNat]
  exact Nat.mod_eq_of_lt (hle.trans_lt (by decide))

/-- The dither offset of a delta is at most about half of it. -/
theorem offset_le (d r : Nat) : (d * (r % 2048) + 1024) / 4096 ≤ (2 * d + 1) / 4 := by
  have hmul : d * (r % 2048) ≤ d * 2048 := Nat.mul_le_mul_left d (by omega)
  omega

/-- A pixel that fits its 16 bits is stored exactly. -/
theorem ditherPixel_toNat {e : TcEntry} {r : Word} (h : pixelOf e r.toNat < 65536) :
    (ditherPixel e r).toNat = pixelOf e r.toNat := by
  have hlow : r.toNat &&& 0x7FF = r.toNat % 2048 := Nat.and_two_pow_sub_one_eq_mod _ 11
  rw [ditherPixel, hlow, Nat.shiftRight_eq_div_pow, BitVec.toNat_ofNat]
  exact Nat.mod_eq_of_lt h

/-- A pixel of a built table is at most 8 above its center, and at most 4 at the last code. -/
theorem pixelOf_le_center_add {s : State} (h : TableInv s) (hv : s.tcValid = true) {i : Nat} (hi : i < 4096) (r : Nat) :
    pixelOf (s.tcEntry i) r ≤ (s.tcEntry i).center.toNat + 8 ∧
      (i = 4095 → pixelOf (s.tcEntry i) r ≤ (s.tcEntry i).center.toNat + 4) := by
  have hbase := base_add_round4_built h hv hi
  obtain ⟨hdelta, hend⟩ := delta_le_built h hv hi
  have hoff := offset_le (s.tcEntry i).delta.toNat r
  unfold pixelOf
  omega

/-- A pixel of a built table fits its 16 bits. -/
theorem pixelOf_le {s : State} (h : TableInv s) (hv : s.tcValid = true) {i : Nat} (hi : i < 4096) (r : Nat) :
    pixelOf (s.tcEntry i) r ≤ 65524 := by
  obtain ⟨hpixel, hlast⟩ := pixelOf_le_center_add h hv hi r
  have hcenter := center_le_built h hv hi
  omega

/-! ### The search and the scan (41_tone_curve.md R128) -/

/-- The search ends at the lower bound. -/
theorem isLowerBound_lowerBound {s : State} (h : TableInv s) (v : Nat) : IsLowerBound s v (lowerBound s.tc v) := by
  have hsize : s.tc.length = 4096 := h.size
  have hle : lowerBound s.tc v ≤ s.tc.length := List.findIdx_le_length
  refine ⟨hsize ▸ hle, fun k hk => ?_, fun hr => ?_⟩
  · have hnot := List.not_of_lt_findIdx hk
    rw [State.tcEntry, List.getD_eq_getElem _ _ (by omega)]
    simpa using hnot
  · have hat : decide (v ≤ (s.tc[lowerBound s.tc v]'(by omega)).base.toNat) = true :=
      List.findIdx_getElem (p := fun e : TcEntry => decide (v ≤ e.base.toNat))
    rw [State.tcEntry, List.getD_eq_getElem _ _ (by omega)]
    simpa using hat

theorem IsLowerBound.le {s : State} {v r q : Nat} (hr : IsLowerBound s v r) (hq : IsLowerBound s v q) : r ≤ q := by
  by_contra hlt
  obtain ⟨hle, hbelow, -⟩ := hr
  obtain ⟨-, -, hat⟩ := hq
  have := hbelow q (by omega)
  have := hat (by omega)
  omega

theorem IsLowerBound.unique {s : State} {v r q : Nat} (hr : IsLowerBound s v r) (hq : IsLowerBound s v q) : r = q :=
  Nat.le_antisymm (hr.le hq) (hq.le hr)

/-- k is the first index of lo .. hi - 1 of the smallest distance. -/
structure FirstNearest (dist : Nat → Nat) (lo hi k : Nat) : Prop where
  low : lo ≤ k
  high : k < hi
  least : ∀ m, lo ≤ m → m < hi → dist k ≤ dist m
  first : ∀ m, lo ≤ m → m < k → dist k < dist m

/-- One step of the scan: a strictly closer entry replaces the best, a tie keeps the earlier. -/
theorem FirstNearest.step {dist : Nat → Nat} {lo hi best : Nat} (h : FirstNearest dist lo hi best) :
    FirstNearest dist lo (hi + 1) (if dist hi < dist best then hi else best) := by
  obtain ⟨hlow, hhigh, hleast, hfirst⟩ := h
  split
  · next hlt =>
    have hbelow (m : Nat) (hm : lo ≤ m) (hmhi : m < hi) : dist hi < dist m := hlt.trans_le (hleast m hm hmhi)
    refine ⟨by omega, hi.lt_succ_self, fun m hm hmhi => ?_, hbelow⟩
    obtain rfl | hne := eq_or_ne m hi
    · exact le_rfl
    · exact (hbelow m hm (by omega)).le
  · next hge =>
    refine ⟨hlow, by omega, fun m hm hmhi => ?_, hfirst⟩
    obtain rfl | hne := eq_or_ne m hi
    · exact Nat.not_lt.1 hge
    · exact hleast m hm (by omega)

/-- The scan goes on from the first nearest of the entries before it to that of all. -/
theorem nearest_firstNearest {tc : List TcEntry} {v lo : Nat} (count : Nat) {k best : Nat}
    (h : FirstNearest (centerDist tc v) lo k best) :
    FirstNearest (centerDist tc v) lo (k + count) (nearest tc v count k best) := by
  induction count generalizing k best with
  | zero => exact h
  | succ count ih =>
    rw [nearest, Nat.add_comm count 1, ← Nat.add_assoc]
    exact ih h.step

theorem centerDist_eq_distanceTo (s : State) (v k : Nat) : centerDist s.tc v k = distanceTo s v k := by
  unfold centerDist distanceTo absDiff State.tcEntry
  omega

/-- The reverse lookup is the first nearest index of the window around the lower bound. -/
theorem nearestInWindow_reverseLookup {s : State} (h : TableInv s) (v : Nat) :
    NearestInWindow s v (lowerBound s.tc v) (reverseLookup s.tc v) := by
  obtain ⟨hr, -, -⟩ := isLowerBound_lowerBound h v
  unfold reverseLookup
  generalize lowerBound s.tc v = r at hr ⊢
  have hstart : FirstNearest (centerDist s.tc v) (r - 2) (r - 2 + 1) (r - 2) :=
    ⟨le_rfl, Nat.lt_succ_self _, fun m hlo hhi => by rw [show m = r - 2 by omega], fun m _ _ => by omega⟩
  have hend : r - 2 + 1 + (min 4095 (r + 2) - (r - 2)) = min 4095 (r + 2) + 1 := by omega
  obtain ⟨hlow, hhigh, hleast, hfirst⟩ := hend ▸ nearest_firstNearest (min 4095 (r + 2) - (r - 2)) hstart
  simp only [centerDist_eq_distanceTo] at hleast hfirst
  exact ⟨hlow, Nat.le_of_lt_succ hhigh, fun m hlo hhi => hleast m hlo (Nat.lt_succ_of_le hhi), hfirst⟩

theorem NearestInWindow.le {s : State} {v r k : Nat} (h : NearestInWindow s v r k) : k ≤ 4095 := by
  obtain ⟨-, hhigh, -⟩ := h
  omega

theorem distanceTo_eq_zero {s : State} {v k : Nat} : distanceTo s v k = 0 ↔ (s.tcEntry k).center.toNat = v := by
  unfold distanceTo
  omega

/-! ### Commands on the table with an operand (41_tone_curve.md R131 to R134) -/

theorem tableOperand_ok {limit : Nat} {rs : Reg} {s : State} {f : State → Res Unit} (hv : s.tcValid = true)
    (hlt : (s.getX rs).toNat < limit) :
    ((requireTable s).bind fun _ s => (requireBelow limit (s.getX rs) s).bind fun _ s => f s) = f s := by
  simp [requireTable, requireBelow, hv, hlt]

theorem tableOperand_outOfRange {limit : Nat} {rs : Reg} {s : State} {f : State → Res Unit} (hv : s.tcValid = true)
    (hge : limit ≤ (s.getX rs).toNat) :
    ((requireTable s).bind fun _ s => (requireBelow limit (s.getX rs) s).bind fun _ s => f s) =
      .raise .operandRange (s.getX rs) s := by
  simp [requireTable, requireBelow, hv, Nat.not_lt.2 hge]

/-- TC.BD puts the delta above the base. -/
theorem baseDelta_toNat (base delta : BitVec 16) :
    (base.setWidth 32 ||| (delta.setWidth 32 <<< 16)).toNat = base.toNat + 65536 * delta.toNat := by
  have hlow : base.setWidth 32 &&& 0xFFFF#32 = base.setWidth 32 := by
    refine BitVec.eq_of_toNat_eq ?_
    rw [BitVec.toNat_and, BitVec.toNat_setWidth_of_le (by decide)]
    exact Nat.and_two_pow_sub_one_of_lt_two_pow base.isLt
  rw [BitVec.or_comm, ← hlow, lui_toNat, BitVec.toNat_setWidth_of_le (by decide)]
  omega

/-! ### The obligations -/

/-- Settles O22: the curve and its triples as lists over the codes, read code by code. -/
theorem curveTriples : Obligations.CurveTriples := by
  unfold Obligations.CurveTriples
  intro b hr ha
  rw [triples_eq hr ha, curve_eq_centers hr ha]
  refine ⟨by simp, by simp, fun i hi => ?_⟩
  simp [hi, tripleAt]

/-- Settles O24: each check answers its smallest failing index, and TC.BUILD raises what the first failing
one gives. -/
theorem buildRefusesIllegalCurve : Obligations.BuildRefusesIllegalCurve := by
  unfold Obligations.BuildRefusesIllegalCurve
  intro s
  have hr := codeRange_curveOf s
  refine ⟨fun hna => ?_, fun ha i hi hneg hmin => ?_, fun ha hb i hi hdrop hmin => ?_⟩
  · obtain ⟨k, hk⟩ := Option.ne_none_iff_exists'.1 (mt firstDescent_eq_none.1 hna)
    obtain ⟨h1, h3, hdesc, hmin⟩ := firstDescent_eq_some hk
    exact ⟨k, h1, h3, hdesc, hmin, exec_tcBuild_of_error (by simp only [buildTable, hk])⟩
  · have hsome := (firstNegative_eq_some hr ha).2 ⟨hi, hneg, hmin⟩
    rw [← ofNat_or_code 1 (by omega)]
    exact exec_tcBuild_of_error (by simp only [buildTable, firstDescent_eq_none.2 ha, hsome])
  · have hsome := (firstDrop_eq_some hr ha).2 ⟨hi, hdrop, hmin⟩
    rw [← ofNat_or_code 2 (by omega)]
    exact exec_tcBuild_of_error (by
      simp only [buildTable, firstDescent_eq_none.2 ha, (firstNegative_eq_none hr ha).2 hb, hsome])

/-- Settles O25: the columns are those of the recurrence, whose steps are at most 16, and the dither offset is at most
about half the delta. -/
theorem tableBounds : Obligations.TableBounds := by
  unfold Obligations.TableBounds
  intro s h hv
  have hdelta (i : Nat) (hi : i < 4096) := delta_le_built h hv hi
  refine ⟨fun i hi => ?_, fun i hi => ?_, center_le_built h hv (by decide), (hdelta 0 (by decide)).2 (.inl rfl),
    (hdelta 4095 (by decide)).2 (.inr le_rfl), fun r => ⟨lcg_toNat r, rngNext_le r, fun i hi => ?_⟩⟩
  · have hcenter := center_le_built h hv hi
    exact ⟨hcenter, by omega, (hdelta i hi).1, base_le_center_built h hv hi⟩
  · rw [center_built h hv (by omega), center_built h hv (by omega)]
    exact (centerOf_succ_bounds _ i).2
  · have hcenter := center_le_built h hv hi
    have hd := (hdelta i hi).1
    have hoff := offset_le (s.tcEntry i).delta.toNat r.toNat
    obtain ⟨hpixel, -⟩ := pixelOf_le_center_add h hv hi r.toNat
    have hfits := pixelOf_le h hv hi r.toNat
    exact ⟨by omega, ditherPixel_toNat (by omega), hpixel, fun _ => by omega, hfits⟩

/-- Settles O26: no base reaches a center of a later code, and only the code itself stands at distance 0 of its
center. -/
theorem centersIncreaseAndLookUp : Obligations.CentersIncreaseAndLookUp := by
  unfold Obligations.CentersIncreaseAndLookUp
  intro s h hv
  have hmono := centerOf_strictMono (curveOf s)
  refine ⟨fun i hi => ?_, fun i r hi hr => ?_⟩
  · rw [center_built h hv (by omega), center_built h hv (by omega)]
    exact hmono i.lt_succ_self
  · have hnear := nearestInWindow_reverseLookup h (s.tcEntry i).center.toNat
    rw [(isLowerBound_lowerBound h _).unique hr] at hnear
    have hle : i ≤ r := by
      by_contra hlt
      obtain ⟨-, -, hat⟩ := hr
      have hreach := (hat (by omega)).trans (base_le_center_built h hv (by omega))
      rw [center_built h hv hi, center_built h hv (by omega), hmono.le_iff_le] at hreach
      exact hlt hreach
    refine ⟨hle, hnear, fun hwithin => ?_⟩
    generalize reverseLookup s.tc _ = k at hnear ⊢
    have hk := hnear.le
    obtain ⟨-, -, hleast, -⟩ := hnear
    have hself := hleast i (by omega) (by omega)
    rw [distanceTo_eq_zero.2 rfl, Nat.le_zero, distanceTo_eq_zero, center_built h hv (by omega),
      center_built h hv hi] at hself
    exact hmono.injective hself

/-- Settles O27: a pixel of a built table fits its 16 bits, so it is returned exactly. -/
theorem dithCommand : Obligations.DithCommand := by
  unfold Obligations.DithCommand
  intro rd rs s
  refine ⟨exec_tableNotBuilt rfl, fun hv hge => ?_, fun hv hlt h => ?_⟩
  · exact exec_of_work_raise (i := .tcDith rd rs) (by simp) (tableOperand_outOfRange hv hge)
  · have hvalue := ditherPixel_toNat ((pixelOf_le h hv hlt s.rng.toNat).trans_lt (by decide))
    refine ⟨_, exec_of_work_ok (i := .tcDith rd rs) (by simp) (tableOperand_ok hv hlt),
      completed_of_sameButRegisters rfl (regs := fun r hr => ?_) (rng := nofun), ?_, lcg_toNat s.rng⟩
    · exact State.getX_setX_other _ _ (List.ne_of_not_mem_cons hr)
    · exact (congrArg BitVec.toNat (State.getX_setX_same _ rd _)).trans
        ((BitVec.toNat_setWidth_of_le (by decide)).trans hvalue)

/-- Settles O28: the search ends at the lower bound, and the scan at the first nearest index of the window. -/
theorem rlkCommand : Obligations.RlkCommand := by
  unfold Obligations.RlkCommand
  intro rd rs s
  refine ⟨exec_tableNotBuilt rfl, fun hv hge => ?_, fun hv hlt h => ?_⟩
  · exact exec_of_work_raise (i := .tcRlk rd rs) (by simp) (tableOperand_outOfRange hv hge)
  · obtain ⟨t, he, hc, hx⟩ := exec_setX (i := .tcRlk rd rs) (by simp) (tableOperand_ok hv hlt)
    have hnear := nearestInWindow_reverseLookup h (s.getX rs).toNat
    have hle := hnear.le
    refine ⟨t, he, hc, _, isLowerBound_lowerBound h _, ?_⟩
    rwa [hx, BitVec.toNat_ofNat, Nat.mod_eq_of_lt (by omega)]

/-- Settles O29: both write a column of the entry to their destination after the two checks. -/
theorem ctrAndBdCommands : Obligations.CtrAndBdCommands := by
  unfold Obligations.CtrAndBdCommands
  intro rd rs s
  refine ⟨fun hv => ⟨exec_tableNotBuilt rfl hv, exec_tableNotBuilt rfl hv⟩, fun hv hge => ⟨?_, ?_⟩,
    fun hv hlt => ⟨?_, ?_⟩⟩
  · exact exec_of_work_raise (i := .tcCtr rd rs) (by simp) (tableOperand_outOfRange hv hge)
  · exact exec_of_work_raise (i := .tcBd rd rs) (by simp) (tableOperand_outOfRange hv hge)
  · obtain ⟨t, he, hc, hx⟩ := exec_setX (i := .tcCtr rd rs) (by simp) (tableOperand_ok hv hlt)
    exact ⟨t, he, hc, hx ▸ BitVec.toNat_setWidth_of_le (by decide)⟩
  · obtain ⟨t, he, hc, hx⟩ := exec_setX (i := .tcBd rd rs) (by simp) (tableOperand_ok hv hlt)
    exact ⟨t, he, hc, hx ▸ baseDelta_toNat _ _⟩

end Sys2Proof.Machine
end

section
/-!
SUPPORT and the statements about the bit reader (42_bit_reader.md): the windows of both units (WindowsOpen), BR.PEEK
(PeekCompletes), BR.GET (GetCompletes), BR.SKIP (SkipDropsBufferedBits).  Before them stand the reader after a refill
and after a consume as exact arithmetic on its count and its buffer, an equation of each primitive per case, and the
end of a command whose work is a new reader, with a destination register or without.
-/

namespace Sys2Proof.Machine

/-! ### The reader's arithmetic (42_bit_reader.md R146 to R148) -/

/-- A number of n bytes is below 256^n. -/
theorem State.leValue_lt (s : State) (n : Nat) (a : Word) : s.leValue n a < 256 ^ n := by
  induction n generalizing a with
  | zero => exact Nat.one_pos
  | succ n ih =>
    have hfirst := (s.byteAt a).isLt
    have hrest := ih (a + 1)
    rw [State.leValue, Nat.pow_succ]
    omega

theorem refilled_cnt {r : BitReader} (hc : r.cnt.toNat < 32) (w : Nat) :
    (refilled r w).cnt.toNat = r.cnt.toNat + 32 :=
  BitVec.toNat_add_of_lt (y := 32#6) (Nat.add_lt_add_right hc 32)

theorem refilled_rem {r : BitReader} (h : 4 ≤ r.rem.toNat) (w : Nat) :
    (refilled r w).rem.toNat = r.rem.toNat - 4 :=
  BitVec.toNat_sub_of_le (y := 4#32) h

/-- The word of a refill goes above the valid bits: it meets none of them, and none of its own bits is lost. -/
theorem refilled_buf {r : BitReader} {w : Nat} (h : ReaderOk r) (hc : r.cnt.toNat < 32) (hw : w < 2 ^ 32) :
    (refilled r w).buf.toNat = r.buf.toNat + 2 ^ r.cnt.toNat * w := by
  have hfits : w <<< r.cnt.toNat < 2 ^ 64 := by
    have hpow : 2 ^ r.cnt.toNat ≤ 2 ^ 32 := Nat.pow_le_pow_right (by decide) hc.le
    calc w <<< r.cnt.toNat = w * 2 ^ r.cnt.toNat := Nat.shiftLeft_eq ..
      _ < 2 ^ 32 * 2 ^ 32 := Nat.mul_lt_mul_of_lt_of_le hw hpow (by decide)
  calc (refilled r w).buf.toNat
      = r.buf.toNat ||| (BitVec.ofNat 64 w).toNat <<< r.cnt.toNat % 2 ^ 64 := by
        rw [refilled, BitVec.toNat_or, BitVec.toNat_shiftLeft]
    _ = w <<< r.cnt.toNat ||| r.buf.toNat := by
        rw [BitVec.toNat_ofNat, Nat.mod_eq_of_lt (hw.trans (by decide)), Nat.mod_eq_of_lt hfits, Nat.or_comm]
    _ = r.buf.toNat + 2 ^ r.cnt.toNat * w := by
        rw [← Nat.shiftLeft_add_eq_or_of_lt h, Nat.shiftLeft_eq, Nat.add_comm, Nat.mul_comm]

/-- The reader after its next n bits are dropped (42_bit_reader.md R148). -/
def consumed (r : BitReader) (n : Nat) : BitReader :=
  { r with buf := r.buf >>> n, cnt := r.cnt - BitVec.ofNat 6 n }

theorem consumed_cnt {r : BitReader} {n : Nat} (h : n ≤ r.cnt.toNat) :
    (consumed r n).cnt.toNat = r.cnt.toNat - n := by
  have hn : (BitVec.ofNat 6 n).toNat = n := Nat.mod_eq_of_lt (h.trans_lt r.cnt.isLt)
  rw [consumed, BitVec.toNat_sub_of_le (BitVec.le_def.2 (hn.trans_le h)), hn]

theorem consumed_buf (r : BitReader) (n : Nat) : (consumed r n).buf.toNat = r.buf.toNat / 2 ^ n := by
  rw [consumed, BitVec.toNat_ushiftRight, Nat.shiftRight_eq_div_pow]

/-- The low n bits of the buffer as a register takes them (42_bit_reader.md R147). -/
def lowBits (r : BitReader) (n : Nat) : Word := BitVec.ofNat 32 (r.buf.toNat &&& mask n)

theorem lowBits_toNat {r : BitReader} {n : Nat} (hn : n ≤ 32) : (lowBits r n).toNat = r.buf.toNat % 2 ^ n := by
  have hlt : r.buf.toNat % 2 ^ n < 2 ^ 32 :=
    (Nat.mod_lt _ (Nat.two_pow_pos n)).trans_le (Nat.pow_le_pow_right (by decide) hn)
  rw [lowBits, mask, Nat.and_two_pow_sub_one_eq_mod, BitVec.toNat_ofNat, Nat.mod_eq_of_lt hlt]

/-- The reader after a refill with the word of memory at BR_PTR (42_bit_reader.md R146). -/
def State.readerAhead (s : State) : BitReader := refilled s.br (s.leValue 4 s.br.ptr)

theorem State.readerAhead_cnt {s : State} (hc : s.br.cnt.toNat < 32) :
    s.readerAhead.cnt.toNat = s.br.cnt.toNat + 32 :=
  refilled_cnt hc _

theorem State.readerAhead_rem {s : State} (h : 4 ≤ s.br.rem.toNat) :
    s.readerAhead.rem.toNat = s.br.rem.toNat - 4 :=
  refilled_rem h _

theorem State.readerAhead_buf {s : State} (h : StreamInv s) (hc : s.br.cnt.toNat < 32) :
    s.readerAhead.buf.toNat = s.br.buf.toNat + 2 ^ s.br.cnt.toNat * s.leValue 4 s.br.ptr :=
  refilled_buf h.reader hc (s.leValue_lt 4 s.br.ptr)

/-! ### The primitives, case by case (42_bit_reader.md R146 to R149) -/

theorem refill_of_settled {s : State} (hrem : 4 ≤ s.br.rem.toNat) (hs : Settled s s.br.ptr 4) :
    refill s = .ok () { s with br := s.readerAhead } := by
  rw [refill, if_neg (Nat.not_lt.2 hrem), memRead_of_settled 4 s.br.ptr hs, Res.bind_ok, State.readerAhead]

theorem refill_overrun {s : State} (hrem : s.br.rem.toNat < 4) : refill s = .raise .readOverrun s.br.ptr s :=
  if_pos hrem

theorem peek_buffered {n : Nat} {s : State} (h : n ≤ s.br.cnt.toNat) : peek n s = .ok (lowBits s.br n) s := by
  rw [peek, if_neg (Nat.not_lt.2 h), Res.bind_ok, lowBits]

theorem peek_refill {n : Nat} {s : State} (h : s.br.cnt.toNat < n) :
    peek n s = (refill s).bind fun _ t => .ok (lowBits t.br n) t := by
  simp only [peek, if_pos h, lowBits]

theorem consume_buffered {n : Nat} {s : State} (h : n ≤ s.br.cnt.toNat) :
    consume n s = .ok () { s with br := consumed s.br n } :=
  if_neg (Nat.not_lt.2 h)

theorem consume_underflow {n : Nat} {s : State} (h : s.br.cnt.toNat < n) :
    consume n s = .raise .bitUnderflow (BitVec.ofNat 32 n) s :=
  if_pos h

theorem getBits_zero (s : State) : getBits 0 s = .ok 0 s := rfl

theorem getBits_of_pos {n : Nat} (h : 0 < n) (s : State) :
    getBits n s = (peek n s).bind fun v t => (consume n t).bind fun _ u => .ok v u :=
  if_neg h.ne'

/-- A Get takes the bits a Peek answers where the Peek leaves enough of them buffered. -/
theorem getBits_of_peek {n : Nat} {v : Word} {s t : State} (hn : 0 < n) (hp : peek n s = .ok v t)
    (hc : n ≤ t.br.cnt.toNat) : getBits n s = .ok v { t with br := consumed t.br n } := by
  rw [getBits_of_pos hn, hp, Res.bind_ok, consume_buffered hc, Res.bind_ok]

theorem peek_of_settled {n : Nat} {s : State} (h : s.br.cnt.toNat < n) (hrem : 4 ≤ s.br.rem.toNat)
    (hs : Settled s s.br.ptr 4) :
    peek n s = .ok (lowBits s.readerAhead n) { s with br := s.readerAhead } := by
  rw [peek_refill h, refill_of_settled hrem hs, Res.bind_ok]

theorem peek_overrun {n : Nat} {s : State} (h : s.br.cnt.toNat < n) (hrem : s.br.rem.toNat < 4) :
    peek n s = .raise .readOverrun s.br.ptr s := by
  rw [peek_refill h, refill_overrun hrem, Res.bind_raise]

theorem getBits_buffered {n : Nat} {s : State} (hn : 0 < n) (h : n ≤ s.br.cnt.toNat) :
    getBits n s = .ok (lowBits s.br n) { s with br := consumed s.br n } :=
  getBits_of_peek hn (peek_buffered h) h

theorem getBits_of_settled {n : Nat} {s : State} (h : s.br.cnt.toNat < n) (hn : n ≤ s.readerAhead.cnt.toNat)
    (hrem : 4 ≤ s.br.rem.toNat) (hs : Settled s s.br.ptr 4) :
    getBits n s = .ok (lowBits s.readerAhead n) { s with br := consumed s.readerAhead n } :=
  getBits_of_peek (Nat.zero_lt_of_lt h) (peek_of_settled h hrem hs) hn

theorem getBits_overrun {n : Nat} {s : State} (h : s.br.cnt.toNat < n) (hrem : s.br.rem.toNat < 4) :
    getBits n s = .raise .readOverrun s.br.ptr s := by
  rw [getBits_of_pos (Nat.zero_lt_of_lt h), peek_overrun h hrem, Res.bind_raise]

/-! ### The commands (42_bit_reader.md R153 to R155) -/

theorem withCount_of_le {n : BitVec 6} (h : n.toNat ≤ 32) (i : Instr) (s : State) (r : Res Unit) :
    withCount i n s r = r :=
  if_pos (decide_eq_true h)

theorem commandWork_brPeek {n : BitVec 6} (h : n.toNat ≤ 32) (rd : Reg) (s : State) :
    commandWork (.brPeek rd n) s = (peek n.toNat s).bind fun v t => .ok () (t.setX rd v) :=
  withCount_of_le h ..

theorem commandWork_brGet {n : BitVec 6} (h : n.toNat ≤ 32) (rd : Reg) (s : State) :
    commandWork (.brGet rd n) s = (getBits n.toNat s).bind fun v t => .ok () (t.setX rd v) :=
  withCount_of_le h ..

theorem commandWork_brSkip {n : BitVec 6} (h : n.toNat ≤ 32) (s : State) :
    commandWork (.brSkip n) s = consume n.toNat s :=
  withCount_of_le h ..

/-- A command whose work is a new reader. -/
theorem exec_reader {i : Instr} {s : State} {r : BitReader} (hi : i ≠ .stop)
    (h : commandWork i s = .ok () { s with br := r }) :
    ∃ t, exec i s = .next t ∧ Completed { br := true } s t ∧ t.br = r :=
  ⟨_, exec_of_work_ok hi h, completed_of_sameButRegisters rfl (br := nofun), rfl⟩

/-- A command whose work is a new reader and its destination register. -/
theorem exec_reader_setX {i : Instr} {s : State} {r : BitReader} {rd : Reg} {v : Word} (hi : i ≠ .stop)
    (h : commandWork i s = .ok () (State.setX { s with br := r } rd v)) :
    ∃ t, exec i s = .next t ∧ Completed { regs := [rd], br := true } s t ∧ t.br = r ∧ t.getX rd = v :=
  ⟨_, exec_of_work_ok hi h,
    completed_of_sameButRegisters rfl
      (regs := fun _ hr => State.getX_setX_other _ v (List.ne_of_not_mem_cons hr)) (br := nofun),
    rfl, State.getX_setX_same _ rd v⟩

/-! ### The obligations -/

/-- Settles O13: the work of each is the opened window, and the frame is that of one unit. -/
theorem windowsOpen : Obligations.WindowsOpen := by
  unfold Obligations.WindowsOpen
  refine fun ra rl s => ⟨exec_reader (by simp) rfl, ?_⟩
  exact ⟨_, exec_of_work_ok (by simp) rfl, completed_of_sameButRegisters rfl (bw := nofun), rfl⟩

/-- Settles O14: by what a Peek does where its bits are buffered, where it refills, and where no refill word is
left. -/
theorem peekCompletes : Obligations.PeekCompletes := by
  unfold Obligations.PeekCompletes
  intro rd n s hn hinv
  refine ⟨fun hbuf => ?buffered, fun hlow hrem hset => ?refill, fun hlow hrem => ?overrun⟩
  case buffered =>
    obtain ⟨t, he, hc, hx⟩ := exec_setX (i := .brPeek rd n) (by simp)
      (by rw [commandWork_brPeek hn, peek_buffered hbuf, Res.bind_ok])
    exact ⟨t, he, hc, hx ▸ lowBits_toNat hn⟩
  case refill =>
    have hroom : s.br.cnt.toNat < 32 := hlow.trans_le hn
    obtain ⟨t, he, hc, hbr, hx⟩ := exec_reader_setX (i := .brPeek rd n) (by simp)
      (by rw [commandWork_brPeek hn, peek_of_settled hlow hrem hset, Res.bind_ok])
    refine ⟨t, he, hc, ?_⟩
    rw [hx, hbr]
    exact ⟨rfl, State.readerAhead_rem hrem, State.readerAhead_cnt hroom,
      State.readerAhead_buf hinv hroom, lowBits_toNat hn⟩
  case overrun =>
    exact exec_of_work_raise (i := .brPeek rd n) (by simp)
      (by rw [commandWork_brPeek hn, peek_overrun hlow hrem, Res.bind_raise])

/-- Settles O15: a Get of no bits leaves the reader; any other consumes what its Peek answered, from the buffer as it
was or as the refill left it. -/
theorem getCompletes : Obligations.GetCompletes := by
  unfold Obligations.GetCompletes
  intro rd n s hn hinv
  refine ⟨fun hzero => ?zero, fun hpos hbuf => ?buffered, fun hlow hrem hset => ?refill, fun hlow hrem => ?overrun⟩
  case zero =>
    exact exec_setX (i := .brGet rd n) (by simp)
      (by rw [commandWork_brGet hn, hzero, getBits_zero, Res.bind_ok])
  case buffered =>
    obtain ⟨t, he, hc, hbr, hx⟩ := exec_reader_setX (i := .brGet rd n) (by simp)
      (by rw [commandWork_brGet hn, getBits_buffered hpos hbuf, Res.bind_ok])
    refine ⟨t, he, hc, ?_⟩
    rw [hx, hbr]
    exact ⟨rfl, rfl, consumed_cnt hbuf, consumed_buf _ _, lowBits_toNat hn⟩
  case refill =>
    have hroom : s.br.cnt.toNat < 32 := hlow.trans_le hn
    have hcnt := State.readerAhead_cnt hroom
    have henough : n.toNat ≤ s.readerAhead.cnt.toNat := by omega
    obtain ⟨t, he, hc, hbr, hx⟩ := exec_reader_setX (i := .brGet rd n) (by simp)
      (by rw [commandWork_brGet hn, getBits_of_settled hlow henough hrem hset, Res.bind_ok])
    refine ⟨t, he, hc, ?_⟩
    rw [hx, hbr, consumed_cnt henough, hcnt, consumed_buf, lowBits_toNat hn,
      State.readerAhead_buf hinv hroom]
    exact ⟨rfl, State.readerAhead_rem hrem, rfl, rfl, rfl⟩
  case overrun =>
    exact exec_of_work_raise (i := .brGet rd n) (by simp)
      (by rw [commandWork_brGet hn, getBits_overrun hlow hrem, Res.bind_raise])

/-- Settles O16: the work of BR.SKIP is a consume, which drops the bits or raises before any effect. -/
theorem skipDropsBufferedBits : Obligations.SkipDropsBufferedBits := by
  unfold Obligations.SkipDropsBufferedBits
  intro n s hn
  refine ⟨fun hbuf => ?buffered, fun hlow => ?underflow⟩
  case buffered =>
    obtain ⟨t, he, hc, hbr⟩ := exec_reader (i := .brSkip n) (by simp)
      ((commandWork_brSkip hn s).trans (consume_buffered hbuf))
    refine ⟨t, he, hc, ?_⟩
    rw [hbr]
    exact ⟨rfl, rfl, consumed_cnt hbuf, consumed_buf _ _⟩
  case underflow =>
    rw [← BitVec.ofNat_toNat]
    exact exec_of_work_raise (i := .brSkip n) (by simp) ((commandWork_brSkip hn s).trans (consume_underflow hlow))

end Sys2Proof.Machine
end

section
/-!
SUPPORT and the statements about the bit writer (43_bit_writer.md): BW.PUT (PutCompletes), BW.FIN (FinReturnsEnd).
Before them stand what a store leaves in memory and in the record of its writes, the frame of a completed command that
also stores bytes, the writer after a push as exact arithmetic, and an equation of each primitive per case.
-/

namespace Sys2Proof.Machine

/-! ### What a store leaves (20_memory.md R63) -/

/-- A store is its first byte and the store of the others. -/
theorem State.storeLE_succ (s : State) (n : Nat) (a : Word) (v : Nat) :
    s.storeLE (n + 1) a v = (s.storeByte false a (BitVec.ofNat 8 v)).storeLE n (a + 1) (v / 256) := rfl

theorem State.byteAt_storeLE_of_not_inRange {s : State} {n : Nat} {a c : Word} (h : s.mem.wf = true)
    (hc : ¬InRange a n c) (v : Nat) : (s.storeLE n a v).byteAt c = s.byteAt c :=
  Memory.read_writeLE_of_not_inRange h hc

/-- A little-endian number is one of memory alone. -/
theorem State.leValue_congr {s t : State} (h : t.mem = s.mem) (n : Nat) (a : Word) : t.leValue n a = s.leValue n a := by
  induction n generalizing a with
  | zero => rfl
  | succ n ih => rw [State.leValue, State.leValue, State.byteAt, State.byteAt, h, ih]

/-- The bytes of a store read back as the low bytes of what was stored. -/
theorem State.leValue_storeLE {n : Nat} {s : State} (h : s.mem.wf = true) (hn : n ≤ 2 ^ 32) (a : Word) (v : Nat) :
    (s.storeLE n a v).leValue n a = v % 256 ^ n := by
  induction n generalizing s a v with
  | zero => simp [State.leValue, Nat.mod_one]
  | succ n ih =>
    have hfirst : ((s.storeLE (n + 1) a v).byteAt a).toNat = v % 256 := by
      simpa [State.byteAt, State.storeLE] using Memory.read_writeLE_add (a := a) (v := v) h hn n.succ_pos
    have hrest : (s.storeLE (n + 1) a v).leValue n (a + 1) = v / 256 % 256 ^ n :=
      ih (s := s.storeByte false a (BitVec.ofNat 8 v)) (Memory.write_wf h a.isLt) (by omega) (a + 1) (v / 256)
    rw [State.leValue, hfirst, hrest, Nat.pow_succ', Nat.mod_mul]

/-- A store puts the block's writes of its own bytes before the record, and nothing else. -/
theorem Memory.pastLE_eq_append (n : Nat) (m : Memory) (p : List PastWrite) (a : Word) (v : Nat) :
    ∃ l, Memory.pastLE n m p a v = l ++ p ∧ ∀ w ∈ l, w.byHost = false ∧ InRange a n w.addr := by
  induction n generalizing m p a v with
  | zero => exact ⟨[], rfl, by simp⟩
  | succ n ih =>
    obtain ⟨l, hl, hown⟩ := ih (m.write a.toNat (BitVec.ofNat 8 v)) (⟨a, m.read a.toNat, false⟩ :: p) (a + 1)
      (v / 256)
    refine ⟨l ++ [⟨a, m.read a.toNat, false⟩], ?_, fun w hw => ?_⟩
    · rw [Memory.pastLE, hl, List.append_assoc, List.singleton_append]
    · rcases List.mem_append.1 hw with hw | hw
      · obtain ⟨hb, hr⟩ := hown w hw
        exact ⟨hb, inRange_succ.2 (.inr hr)⟩
      · rw [List.mem_singleton.1 hw]
        exact ⟨rfl, inRange_succ.2 (.inl rfl)⟩

/-- The frame of a completed command that before its end also stores n bytes at `a`. -/
theorem Completed.storeLE {c : MayChange} {s t : State} (h : Completed c s t.retire) (hwf : t.mem.wf = true)
    (n : Nat) (a : Word) (v : Nat) :
    Completed { c with bytes := (a, n) :: c.bytes } s (t.storeLE n a v).retire where
  cp := h.cp
  cmdCount := h.cmdCount
  regs := h.regs
  rng := h.rng
  br := h.br
  bw := h.bw
  curve hc := (h.curve hc).trans (.of_eq rfl)
  geometry hc := ⟨(h.geometry hc).width, (h.geometry hc).height, (h.geometry hc).stride, (h.geometry hc).srclen⟩
  mem b hb := by
    obtain ⟨hnew, hold⟩ := List.forall_mem_cons.1 hb
    exact (State.byteAt_storeLE_of_not_inRange hwf hnew v).trans (h.mem b hold)
  past := by
    obtain ⟨l, hl, hown⟩ := Memory.pastLE_eq_append n t.mem t.past a v
    obtain ⟨k, hk, hbefore⟩ := h.past
    refine ⟨l ++ k, by rw [List.append_assoc, ← hk]; exact hl, fun w hw => ?_⟩
    rcases List.mem_append.1 hw with hw | hw
    · obtain ⟨hb, hr⟩ := hown w hw
      exact ⟨hb, _, List.mem_cons_self, hr⟩
    · obtain ⟨hb, p, hp, hr⟩ := hbefore w hw
      exact ⟨hb, p, List.mem_cons_of_mem _ hp, hr⟩
  control := ⟨h.control.ieDone, h.control.ieFault, h.control.busy, h.control.done, h.control.fault,
    h.control.cmdBase, h.control.faultCode, h.control.faultInfo, h.control.hung⟩
  outside := ⟨h.outside.holes, h.outside.mmioBase, h.outside.writesLeft, h.outside.inputs, h.outside.hostData⟩

/-! ### The writer's arithmetic (43_bit_writer.md R161) -/

/-- The new bits go above the pending ones and meet none of them. -/
theorem pushAcc_eq {w : BitWriter} (h : WriterOk w) (v n : Nat) :
    pushAcc w v n = w.acc.toNat + 2 ^ w.cnt.toNat * (v % 2 ^ n) := by
  rw [pushAcc, mask, Nat.and_two_pow_sub_one_eq_mod, Nat.or_comm, ← Nat.shiftLeft_add_eq_or_of_lt h,
    Nat.shiftLeft_eq, Nat.add_comm, Nat.mul_comm]

/-- What a push leaves above its whole bytes fits the accumulator. -/
theorem pushAcc_shiftRight_lt {w : BitWriter} (h : WriterOk w) (v n : Nat) :
    pushAcc w v n >>> (8 * pushBytes w n) < 2 ^ 8 := by
  rw [Nat.shiftRight_eq_div_pow]
  apply Nat.div_lt_of_lt_mul
  rw [← Nat.pow_add]
  have hbits : w.cnt.toNat + n ≤ 8 * pushBytes w n + 8 := by unfold pushBytes; omega
  exact (pushAcc_lt h v n).trans_le (Nat.pow_le_pow_right (by decide) hbits)

/-- The writer after m bytes have left it. -/
def emitted (w : BitWriter) (m : Nat) : BitWriter :=
  { w with ptr := w.ptr + BitVec.ofNat 32 m, rem := w.rem - BitVec.ofNat 32 m }

theorem emitted_zero (w : BitWriter) : emitted w 0 = w := by
  simp [emitted]

theorem emitted_succ (w : BitWriter) (m : Nat) : emitted (emitted w 1) m = emitted w (m + 1) := by
  simp only [emitted, BitWriter.mk.injEq, and_true]
  exact ⟨add_one_add_ofNat w.ptr m, by rw [BitVec.sub_sub, Nat.add_comm m 1, BitVec.ofNat_add]⟩

theorem emitted_rem {w : BitWriter} {m : Nat} (h : m ≤ w.rem.toNat) : (emitted w m).rem.toNat = w.rem.toNat - m := by
  have hm : (BitVec.ofNat 32 m).toNat = m := Nat.mod_eq_of_lt (h.trans_lt w.rem.isLt)
  rw [emitted, BitVec.toNat_sub_of_le (BitVec.le_def.2 (hm.trans_le h)), hm]

/-- The writer after a push of the low n bits of v. -/
def pushed (w : BitWriter) (v n : Nat) : BitWriter :=
  { emitted w (pushBytes w n) with
    acc := BitVec.ofNat 8 (pushAcc w v n >>> (8 * pushBytes w n))
    cnt := BitVec.ofNat 3 (w.cnt.toNat + n - 8 * pushBytes w n) }

theorem pushed_cnt (w : BitWriter) (v n : Nat) : (pushed w v n).cnt.toNat = (w.cnt.toNat + n) % 8 := by
  rw [pushed, BitVec.toNat_ofNat, pushBytes]
  omega

theorem pushed_acc {w : BitWriter} (h : WriterOk w) (v n : Nat) :
    (pushed w v n).acc.toNat = pushAcc w v n / 256 ^ pushBytes w n := by
  rw [pushed, BitVec.toNat_ofNat, Nat.mod_eq_of_lt (pushAcc_shiftRight_lt h v n), Nat.shiftRight_eq_div_pow,
    Nat.pow_mul]

/-! ### The primitives, case by case (43_bit_writer.md R161, R162) -/

/-- The state after m bytes of the accumulator have been stored at BW_PTR. -/
def State.emit (s : State) (m acc : Nat) : State :=
  State.storeLE { s with bw := emitted s.bw m } m s.bw.ptr acc

theorem State.emit_zero (s : State) (acc : Nat) : s.emit 0 acc = s := by
  rw [State.emit, emitted_zero]
  rfl

theorem State.emit_succ (s : State) (m acc : Nat) : (s.emit 1 acc).emit m (acc / 256) = s.emit (m + 1) acc := by
  rw [State.emit, State.emit, State.emit, ← emitted_succ s.bw m]
  rfl

/-- The low byte of the accumulator leaves it for memory. -/
theorem emitBytes_succ {s : State} (hw : s.writesLeft = none) (h : s.admits s.bw.ptr = true) (k acc : Nat) :
    emitBytes (k + 1) acc s = emitBytes k (acc / 256) (s.emit 1 acc) := by
  have hbyte : BitVec.ofNat 8 (acc &&& 0xFF) = BitVec.ofNat 8 acc :=
    BitVec.eq_of_toNat_eq (by simp [Nat.and_two_pow_sub_one_eq_mod acc 8])
  have hone : Admitted s s.bw.ptr 1 := admitted_succ.2 ⟨h, fun _ ⟨_, hk, _⟩ => absurd hk (Nat.not_lt_zero _)⟩
  have hstore : s.storeLE 1 s.bw.ptr (acc &&& 0xFF) = s.storeLE 1 s.bw.ptr acc := by
    rw [State.storeLE_succ, State.storeLE_succ, hbyte]
    rfl
  rw [emitBytes, memWrite_of_admitted hw hone, hstore, Nat.shiftRight_eq_div_pow]
  rfl

/-- An emission whose first m bytes are admitted stores them and goes on with the others. -/
theorem emitBytes_add {m : Nat} {s : State} (hw : s.writesLeft = none) (h : Admitted s s.bw.ptr m) (k acc : Nat) :
    emitBytes (m + k) acc s = emitBytes k (acc / 256 ^ m) (s.emit m acc) := by
  induction m generalizing s acc with
  | zero => rw [Nat.zero_add, Nat.pow_zero, Nat.div_one, State.emit_zero]
  | succ m ih =>
    obtain ⟨ha, hrest⟩ := admitted_succ.1 h
    rw [Nat.succ_add, emitBytes_succ hw ha, Nat.pow_succ', ← Nat.div_div_eq_div_mul, ← State.emit_succ s m]
    exact ih (s := s.emit 1 acc) hw hrest (acc / 256)

theorem push_of_admitted {v n : Nat} {s : State} (hw : s.writesLeft = none)
    (hrem : pushBytes s.bw n ≤ s.bw.rem.toNat) (h : Admitted s s.bw.ptr (pushBytes s.bw n)) :
    push v n s =
      .ok () (State.storeLE { s with bw := pushed s.bw v n } (pushBytes s.bw n) s.bw.ptr (pushAcc s.bw v n)) := by
  have hemit := emitBytes_add hw h 0 (pushAcc s.bw v n)
  rw [push, if_neg (Nat.not_lt.2 hrem)]
  exact congrArg (Res.bind · _) hemit

theorem push_overrun {v n : Nat} {s : State} (hrem : s.bw.rem.toNat < pushBytes s.bw n) :
    push v n s = .raise .writeOverrun s.bw.ptr s :=
  if_pos hrem

theorem finish_of_no_pending {s : State} (h : s.bw.cnt.toNat = 0) : finish s = .ok s.bw.ptr s :=
  if_neg (not_not.2 (BitVec.eq_of_toNat_eq h))

theorem finish_residual {s : State} (h : s.bw.cnt.toNat ≠ 0) :
    finish s = .raise .residualBits (s.bw.cnt.setWidth 32) s :=
  if_pos fun hc => h (congrArg BitVec.toNat hc)

/-! ### The commands (43_bit_writer.md R166, R167) -/

theorem commandWork_bwPut {n : BitVec 6} (h : n.toNat ≤ 32) (rs : Reg) (s : State) :
    commandWork (.bwPut rs n) s = push (s.getX rs).toNat n.toNat s :=
  withCount_of_le h ..

/-- A command whose work is a new writer and n bytes stored. -/
theorem exec_writer_storeLE {i : Instr} {s : State} {w : BitWriter} {n : Nat} {a : Word} {v : Nat} (hi : i ≠ .stop)
    (hwf : s.mem.wf = true) (hn : n ≤ 2 ^ 32)
    (h : commandWork i s = .ok () (State.storeLE { s with bw := w } n a v)) :
    ∃ t, exec i s = .next t ∧ Completed { bw := true, bytes := [(a, n)] } s t ∧ t.bw = w ∧
      t.leValue n a = v % 256 ^ n := by
  have hframe : Completed { bw := true } s ({ s with bw := w } : State).retire :=
    completed_of_sameButRegisters rfl (bw := nofun)
  exact ⟨_, exec_of_work_ok hi h, hframe.storeLE hwf n a v, rfl,
    (State.leValue_congr (s := s.storeLE n a v) (by rfl) n a).trans (State.leValue_storeLE hwf hn a v)⟩

/-- Settles O19: a push that has room stores the low bytes of the accumulator and keeps the rest of it, so the two
together are the pending bits with the new ones above them. -/
theorem putCompletes : Obligations.PutCompletes := by
  unfold Obligations.PutCompletes
  intro rs n s hn
  refine ⟨fun hinv hstore hrem hadm => ?room, fun hrem => ?overrun⟩
  case room =>
    obtain ⟨t, he, hc, hbw, hval⟩ := exec_writer_storeLE (i := .bwPut rs n) (by simp) hstore.canonical
      (hrem.trans s.bw.rem.isLt.le)
      ((commandWork_bwPut hn rs s).trans (push_of_admitted hstore.settled hrem hadm))
    refine ⟨t, he, hc, ?_⟩
    rw [hbw]
    refine ⟨rfl, emitted_rem hrem, pushed_cnt .., ?_⟩
    rw [← pushAcc_eq hinv.writer, pushed_acc hinv.writer, Nat.pow_mul]
    exact hval ▸ Nat.mod_add_div _ _
  case overrun =>
    exact exec_of_work_raise (i := .bwPut rs n) (by simp) ((commandWork_bwPut hn rs s).trans (push_overrun hrem))

/-- Settles O20: the work of BW.FIN is a Finish, which returns BW_PTR or raises before any effect. -/
theorem finReturnsEnd : Obligations.FinReturnsEnd := by
  unfold Obligations.FinReturnsEnd
  refine fun rd s => ⟨fun hnone => ?returns, fun hsome => ?residual⟩
  case returns =>
    exact exec_setX (i := .bwFin rd) (by simp) (by rw [commandWork, finish_of_no_pending hnone, Res.bind_ok])
  case residual =>
    exact exec_of_work_raise (i := .bwFin rd) (by simp) (by rw [commandWork, finish_residual hsome, Res.bind_raise])

end Sys2Proof.Machine
end

section
/-!
SUPPORT and the statements about the decoder's shift and its refusals (44_decoder.md): the residual shift (ShiftTable)
and the geometry checks of the row and image commands (GeometryRefused).  Before them stand the bounds of a shift as
bounds of its delta, an equation of each check per case, and the commands as their width check and what follows it.
-/

namespace Sys2Proof.Machine

/-! ### The residual shift (44_decoder.md R175) -/

theorem bitlength_le_iff {v n : Nat} : bitlength v ≤ n ↔ v < 2 ^ n := by
  unfold bitlength
  split
  · next hzero => simp [hzero]
  · next hpos => rw [Nat.succ_le_iff, Nat.log2_lt hpos]

theorem residualShift_le_iff {delta n : Nat} : residualShift delta ≤ n ↔ delta < 2 ^ (n + 7) := by
  rw [residualShift, Nat.sub_le_iff_le_add, bitlength_le_iff]

/-! ### The geometry checks (44_decoder.md R185 to R187) -/

theorem requireTable_of_valid {s : State} (h : s.tcValid = true) : requireTable s = .ok () s := if_pos h

theorem checkWidth_of_zero {s : State} (h : s.gWidth.toNat = 0) :
    checkWidth s = .raise .invalidGeometry 1#32 s := if_pos h

theorem checkWidth_of_not_multiple {s : State} (h : s.gWidth.toNat % 32 ≠ 0) :
    checkWidth s = .raise .invalidGeometry 2#32 s := by
  rw [checkWidth, if_neg fun hzero => h (by rw [hzero]), if_pos h]

theorem checkWidth_of_legal {s : State} (hpos : s.gWidth.toNat ≠ 0) (hmul : s.gWidth.toNat % 32 = 0) :
    checkWidth s = .ok s.gWidth.toNat s := by
  rw [checkWidth, if_neg hpos, if_neg (not_not.2 hmul)]

theorem State.rowStride_eq (s : State) :
    s.rowStride = if s.gStride.toNat = 0 then s.gWidth.toNat else s.gStride.toNat := ite_not ..

theorem checkDecodeGeometry_of_stride_lt {s : State} {w : Nat} (hw : checkWidth s = .ok w s) (h : s.rowStride < w) :
    checkDecodeGeometry s = .raise .invalidGeometry 3#32 s := by
  rw [checkDecodeGeometry, hw, Res.bind_ok, if_pos h]

theorem checkDecodeGeometry_of_short {s : State} {w : Nat} (hw : checkWidth s = .ok w s) (hstride : w ≤ s.rowStride)
    (hheight : 0 < s.gHeight.toNat) (hshort : s.gSrclen.toNat < (s.gHeight.toNat - 1) * s.rowStride + w) :
    checkDecodeGeometry s = .raise .invalidGeometry 4#32 s := by
  rw [checkDecodeGeometry, hw, Res.bind_ok, if_neg (Nat.not_lt.2 hstride), if_pos ⟨hheight, hshort⟩]

/-- On a built table every row and image command first checks the width. -/
theorem commandWork_eq_checkWidth_bind {ra rb : Reg} {s : State} (hv : s.tcValid = true) {i : Instr}
    (hi : i ∈ [Instr.dcDrow ra rb, .dcErow ra rb, .dcDec ra rb, .dcEnc ra rb]) :
    ∃ f, commandWork i s = (checkWidth s).bind f := by
  simp only [List.mem_cons, List.not_mem_nil, or_false] at hi
  rcases hi with rfl | rfl | rfl | rfl <;> rw [commandWork, requireTable_of_valid hv, Res.bind_ok]
  · exact ⟨_, rfl⟩
  · exact ⟨_, rfl⟩
  · exact ⟨_, Res.bind_assoc ..⟩
  · exact ⟨_, rfl⟩

theorem exec_of_checkWidth_raise {ra rb : Reg} {s : State} {c : FaultCode} {info : Word} (hv : s.tcValid = true)
    (h : checkWidth s = .raise c info s) {i : Instr}
    (hi : i ∈ [Instr.dcDrow ra rb, .dcErow ra rb, .dcDec ra rb, .dcEnc ra rb]) :
    exec i s = .next (s.enterFault c info) := by
  obtain ⟨f, hf⟩ := commandWork_eq_checkWidth_bind hv hi
  have hne : i ≠ .stop := by rintro rfl; simp at hi
  exact exec_of_work_raise hne (by rw [hf, h, Res.bind_raise])

theorem exec_dcDec_of_geometry_raise {ra rb : Reg} {s : State} {c : FaultCode} {info : Word} (hv : s.tcValid = true)
    (h : checkDecodeGeometry s = .raise c info s) : exec (.dcDec ra rb) s = .next (s.enterFault c info) :=
  exec_of_work_raise (by simp) (by rw [commandWork, requireTable_of_valid hv, Res.bind_ok, h, Res.bind_raise])

/-! ### The obligations -/

/-- Settles O30: the shift is at most n exactly below 2^(n + 7), which gives the end of every row of the table. -/
theorem shiftTable : Obligations.ShiftTable := by
  unfold Obligations.ShiftTable
  intro delta hle
  have h0 : residualShift delta ≤ 0 ↔ delta < 128 := residualShift_le_iff
  have h1 : residualShift delta ≤ 1 ↔ delta < 256 := residualShift_le_iff
  have h2 : residualShift delta ≤ 2 ↔ delta < 512 := residualShift_le_iff
  have h3 : residualShift delta ≤ 3 ↔ delta < 1024 := residualShift_le_iff
  have h4 : residualShift delta ≤ 4 ↔ delta < 2048 := residualShift_le_iff
  split_ifs <;> omega

/-- Settles O37: the width check stands first in all four commands, and DC.DEC goes on to the stride and the length. -/
theorem geometryRefused : Obligations.GeometryRefused := by
  unfold Obligations.GeometryRefused
  intro ra rb s stride hv hstride
  obtain rfl : stride = s.rowStride := hstride.trans s.rowStride_eq.symm
  refine ⟨fun hzero i hi => ?_, fun hmul i hi => ?_, fun hpos hmul => ⟨fun hlt => ?_, fun hle hheight hshort => ?_⟩⟩
  · exact exec_of_checkWidth_raise hv (checkWidth_of_zero hzero) hi
  · exact exec_of_checkWidth_raise hv (checkWidth_of_not_multiple hmul) hi
  · exact exec_dcDec_of_geometry_raise hv (checkDecodeGeometry_of_stride_lt (checkWidth_of_legal hpos hmul) hlt)
  · exact exec_dcDec_of_geometry_raise hv
      (checkDecodeGeometry_of_short (checkWidth_of_legal hpos hmul) hle hheight hshort)

end Sys2Proof.Machine
end

section
/-!
SUPPORT and the statements about the encoder's phase (45_encoder.md): the header the scan finds
(ScanFindsFirstExtremes) and the phase as the decoder reads it back (PhaseRoundTripOfCodes).  Before them stand the
invariant of the scan, said once for the maximum and the minimum, the fields of a packed stream by their position,
and the position and the value of each residual.
-/

namespace Sys2Proof.Machine

/-! ### The first-occurrence scan (45_encoder.md R197, R200) -/

/-- `best` stands at i in the list, as the first element that no element of the list beats. -/
structure FirstBest (beats : Nat → Nat → Prop) (codes : List Nat) (best i : Nat) : Prop where
  at_index : codes[i]? = some best
  unbeaten : ∀ c ∈ codes, ¬beats c best
  first : ∀ k c, k < i → codes[k]? = some c → beats best c

section scan
variable {beats : Nat → Nat → Prop} {codes : List Nat} {best i : Nat}

/-- One strict comparison of the scan: a later element wins only by beating the best so far. -/
theorem FirstBest.append [DecidableRel beats] [IsStrictTotalOrder Nat beats] (h : FirstBest beats codes best i)
    (c : Nat) :
    FirstBest beats (codes ++ [c]) (if beats c best then c else best) (if beats c best then codes.length else i) := by
  have hi : i < codes.length := (List.getElem?_eq_some_iff.1 h.at_index).1
  split
  · next hbeats =>
    have hall : ∀ d ∈ codes, beats c d := fun d hd =>
      (trichotomous_of beats d best).elim (fun hlt => absurd hlt (h.unbeaten d hd)) fun hge =>
        hge.elim (fun heq => heq ▸ hbeats) fun hgt => trans_of beats hbeats hgt
    refine ⟨by simp, fun d hd => ?_, fun k d hk hd => ?_⟩
    · obtain hd | rfl := List.mem_append.1 hd |>.imp_right List.mem_singleton.1
      · exact asymm_of beats (hall d hd)
      · exact irrefl_of beats d
    · rw [List.getElem?_append_left hk] at hd
      exact hall d (List.mem_of_getElem? hd)
  · next hbeats =>
    refine ⟨by rw [List.getElem?_append_left hi, h.at_index], fun d hd => ?_, fun k d hk hd => ?_⟩
    · obtain hd | rfl := List.mem_append.1 hd |>.imp_right List.mem_singleton.1
      · exact h.unbeaten d hd
      · exact hbeats
    · rw [List.getElem?_append_left (hk.trans hi)] at hd
      exact h.first k d hk hd

theorem firstBest_singleton [Std.Irrefl beats] (c : Nat) : FirstBest beats [c] c 0 :=
  ⟨rfl, fun d hd => by rw [List.mem_singleton.1 hd]; exact irrefl_of beats c, fun k d hk => by omega⟩

end scan

/-- The head holds the first largest and the first smallest of these codes. -/
structure FirstExtremes (codes : List Nat) (h : PhaseHead) : Prop where
  max : FirstBest (· > ·) codes h.mx h.imax
  min : FirstBest (· < ·) codes h.mn h.imin

theorem scanStep_firstExtremes {codes : List Nat} {h : PhaseHead} (hh : FirstExtremes codes h) (c : Nat) :
    FirstExtremes (codes ++ [c]) (scanStep h codes.length c) :=
  ⟨hh.max.append c, hh.min.append c⟩

theorem scanFrom_firstExtremes (rest : List Nat) {codes : List Nat} {h : PhaseHead} (hh : FirstExtremes codes h) :
    FirstExtremes (codes ++ rest) (scanFrom h codes.length rest) := by
  induction rest generalizing codes h with
  | nil => rwa [List.append_nil]
  | cons c rest ih => simpa [scanFrom] using ih (scanStep_firstExtremes hh c)

theorem scanCodes_firstExtremes {codes : List Nat} (hne : codes ≠ []) : FirstExtremes codes (scanCodes codes) := by
  obtain ⟨c, rest, rfl⟩ := List.exists_cons_of_ne_nil hne
  exact scanFrom_firstExtremes (codes := [c]) rest ⟨firstBest_singleton c, firstBest_singleton c⟩

namespace FirstExtremes
variable {codes : List Nat} {h : PhaseHead}

theorem bounds (hh : FirstExtremes codes h) : ∀ c ∈ codes, h.mn ≤ c ∧ c ≤ h.mx :=
  fun c hc => ⟨Nat.not_lt.1 (hh.min.unbeaten c hc), Nat.not_lt.1 (hh.max.unbeaten c hc)⟩

theorem mn_le_mx (hh : FirstExtremes codes h) : h.mn ≤ h.mx :=
  (hh.bounds h.mx (List.mem_of_getElem? hh.max.at_index)).1

theorem index_ne (hh : FirstExtremes codes h) (hlt : h.mn < h.mx) : h.imax ≠ h.imin := by
  intro heq
  have hsome : some h.mx = some h.mn := by rw [← hh.max.at_index, heq, hh.min.at_index]
  exact hlt.ne' (Option.some.inj hsome)

/-- Where all codes are equal nothing stands before the first of them. -/
theorem index_eq_zero (hh : FirstExtremes codes h) (heq : h.mn = h.mx) : h.imax = 0 ∧ h.imin = 0 := by
  have hcodes : ∀ k, k < codes.length → codes[k]? = some h.mx := fun k hk => by
    have hb := hh.bounds _ (List.getElem_mem hk)
    rw [List.getElem?_eq_getElem hk, Option.some_inj]
    omega
  have hzero := hcodes 0 (List.length_pos_of_mem (List.mem_of_getElem? hh.max.at_index))
  refine ⟨Nat.eq_zero_of_not_pos fun hpos => ?_, Nat.eq_zero_of_not_pos fun hpos => ?_⟩
  · exact lt_irrefl _ (hh.max.first 0 _ hpos hzero)
  · exact heq.not_lt (hh.min.first 0 _ hpos hzero)

end FirstExtremes

theorem tieBreak_of_ne {h : PhaseHead} (hne : h.imax ≠ h.imin) : tieBreak h = h := if_neg hne

theorem tieBreak_of_zero {h : PhaseHead} (hmax : h.imax = 0) (hmin : h.imin = 0) :
    tieBreak h = { h with imin := 1 } := by
  simp [tieBreak, hmax, hmin]

/-- Settles O38: the scan finds the first extremes; where they differ so do their indices and the tie-break does
nothing, where they are equal both indices are 0 and it takes element 1 for the minimum. -/
theorem scanFindsFirstExtremes : Obligations.ScanFindsFirstExtremes := by
  unfold Obligations.ScanFindsFirstExtremes
  intro codes hlen
  have hscan : FirstExtremes codes (scanCodes codes) := scanCodes_firstExtremes (by rintro rfl; simp at hlen)
  have hmax := hlen ▸ (List.getElem?_eq_some_iff.1 hscan.max.at_index).1
  have hmin := hlen ▸ (List.getElem?_eq_some_iff.1 hscan.min.at_index).1
  obtain hlt | heq := hscan.mn_le_mx.lt_or_eq
  · have hne := hscan.index_ne hlt
    rw [headOf, tieBreak_of_ne hne]
    exact ⟨hmax, hmin, hne, hscan.bounds, hscan.max.at_index, hscan.min.at_index, hscan.max.first,
      fun _ => hscan.min.first, fun heq => absurd heq hlt.ne⟩
  · obtain ⟨hmax0, hmin0⟩ := hscan.index_eq_zero heq
    have hone : codes[1]? = some (scanCodes codes).mn := by
      have hb := hscan.bounds codes[1] (List.getElem_mem _)
      rw [List.getElem?_eq_getElem (by omega), Option.some_inj]
      omega
    rw [headOf, tieBreak_of_zero hmax0 hmin0]
    exact ⟨hmax, by simp, by simp [hmax0], hscan.bounds, hscan.max.at_index, hone, hscan.max.first,
      fun hlt => absurd heq hlt.ne, fun _ => ⟨hmax0, rfl⟩⟩

/-! ### Packed fields by their position (20_memory.md R64) -/

/-- A field is read back at the bit where the fields before it end. -/
theorem packFields_div_mod {fs : List (Nat × Nat)} {m v n : Nat} (h : fs[m]? = some (v, n)) :
    packFields fs / 2 ^ fieldBits (fs.take m) % 2 ^ n = v % 2 ^ n := by
  induction fs generalizing m with
  | nil => simp at h
  | cons f fs ih =>
    cases m with
    | zero =>
      obtain rfl : f = (v, n) := by simpa using h
      simp [packFields, fieldBits]
    | succ m =>
      have hrest : packFields (f :: fs) / 2 ^ f.2 = packFields fs := by
        rw [packFields, Nat.add_mul_div_left _ _ (by positivity), Nat.div_eq_of_lt (Nat.mod_lt _ (by positivity)),
          Nat.zero_add]
      rw [List.take_succ_cons, fieldBits, Nat.pow_add, ← Nat.div_div_eq_div_mul, hrest]
      exact ih (by simpa using h)

theorem fieldBits_of_width {n : Nat} {fs : List (Nat × Nat)} (h : ∀ f ∈ fs, f.2 = n) :
    fieldBits fs = n * fs.length := by
  induction fs with
  | nil => rfl
  | cons f fs ih =>
    obtain ⟨hf, hfs⟩ := List.forall_mem_cons.1 h
    rw [fieldBits, ih hfs, hf, List.length_cons, Nat.mul_succ, Nat.add_comm]

/-! ### The residuals of a phase (45_encoder.md R196, R198, R199) -/

/-- How many of the elements have a residual: those that are not imax and imin (30_encoding.md R98). -/
def residualCount (h : PhaseHead) (elements : List Nat) : Nat :=
  elements.countP fun k => decide (k ≠ h.imax ∧ k ≠ h.imin)

theorem residualCount_cons (h : PhaseHead) (i : Nat) (elements : List Nat) :
    residualCount h (i :: elements) =
      residualCount h elements + if i = h.imax ∨ i = h.imin then 0 else 1 := by
  by_cases hi : i = h.imax ∨ i = h.imin <;> simp [residualCount, hi, ← not_or]

theorem residualCount_range {h : PhaseHead} {n : Nat} (hmax : h.imax < n) (hmin : h.imin < n)
    (hne : h.imax ≠ h.imin) : residualCount h (List.range n) = n - 2 := by
  have herase : (List.range n).filter (fun k => decide (k ≠ h.imax ∧ k ≠ h.imin)) =
      ((List.range n).erase h.imin).erase h.imax := by
    rw [(List.nodup_range.erase h.imin).erase_eq_filter, List.nodup_range.erase_eq_filter, List.filter_filter]
    congr 1
    funext k
    simp [bne, beq_eq_decide]
  rw [residualCount, List.countP_eq_length_filter, herase,
    List.length_erase_of_mem ((List.mem_erase_of_ne hne).2 (List.mem_range.2 hmax)),
    List.length_erase_of_mem (List.mem_range.2 hmin), List.length_range]
  rfl

theorem residualFields_length (h : PhaseHead) (i : Nat) (cs : List Nat) :
    (residualFields h i cs).length = residualCount h (List.range' i cs.length) := by
  induction cs generalizing i with
  | nil => rfl
  | cons c cs ih =>
    rw [residualFields, List.length_cons, List.range'_succ, residualCount_cons]
    split <;> simp [ih]

/-- The residual of an element stands behind one for each element before it but imax and imin. -/
theorem residualFields_getElem? {h : PhaseHead} {cs : List Nat} {i k c : Nat} (hc : cs[k]? = some c)
    (hk : ¬(i + k = h.imax ∨ i + k = h.imin)) :
    (residualFields h i cs)[residualCount h (List.range' i k)]? = some (encodeResidual h c, 7) := by
  induction cs generalizing i k with
  | nil => simp at hc
  | cons d cs ih =>
    cases k with
    | zero =>
      obtain rfl : d = c := by simpa using hc
      rw [residualFields, if_neg (by simpa using hk)]
      rfl
    | succ k =>
      have hrest := ih (i := i + 1) (by simpa using hc) (by rwa [Nat.add_right_comm])
      rw [residualFields, List.range'_succ, residualCount_cons]
      split <;> simpa using hrest

theorem encodeResidual_lt (h : PhaseHead) (c : Nat) : encodeResidual h c < 2 ^ 7 :=
  Nat.and_lt_two_pow _ (by decide)

/-- The shift brings the residual of every code up to max below 2^7, so that the mask drops no bit of it. -/
theorem encodeResidual_of_le {h : PhaseHead} {c : Nat} (hc : c ≤ h.mx) :
    encodeResidual h c = (c - h.mn) / 2 ^ residualShift (h.mx - h.mn) := by
  have hdelta : h.mx - h.mn < 2 ^ residualShift (h.mx - h.mn) * 2 ^ 7 := by
    rw [← Nat.pow_add]
    exact residualShift_le_iff.1 le_rfl
  have hlt : (c - h.mn) / 2 ^ residualShift (h.mx - h.mn) < 2 ^ 7 :=
    Nat.div_lt_of_lt_mul ((Nat.sub_le_sub_right hc _).trans_lt hdelta)
  rw [encodeResidual, Nat.shiftRight_eq_div_pow, Nat.and_two_pow_sub_one_eq_mod _ 7, Nat.mod_eq_of_lt hlt]

theorem mem_residualFields {h : PhaseHead} {f : Nat × Nat} {i : Nat} {cs : List Nat}
    (hf : f ∈ residualFields h i cs) : f.1 < 2 ^ 7 ∧ f.2 = 7 := by
  induction cs generalizing i with
  | nil => simp [residualFields] at hf
  | cons c cs ih =>
    rw [residualFields] at hf
    split at hf
    · exact ih hf
    · obtain rfl | hf := List.mem_cons.1 hf
      · exact ⟨encodeResidual_lt h c, rfl⟩
      · exact ih hf

/-! ### The phase read back (30_encoding.md R98, 45_encoder.md R199) -/

section phase
variable {codes : List Nat}

theorem phaseFields_fits (hlen : codes.length = 16) (hcodes : ∀ c ∈ codes, c ≤ 2047) :
    ∀ f ∈ phaseFields codes, f.1 < 2 ^ f.2 := by
  obtain ⟨hmax, hmin, -, hbounds, hmx, -⟩ := scanFindsFirstExtremes codes hlen
  have hmx_mem := List.mem_of_getElem? hmx
  have hmx_le := hcodes _ hmx_mem
  have hmn_le := (hbounds _ hmx_mem).1
  intro f hf
  obtain hf | hf := List.mem_append.1 hf
  · simp only [List.mem_cons, List.not_mem_nil, or_false] at hf
    rcases hf with rfl | rfl | rfl | rfl <;> dsimp only <;> omega
  · obtain ⟨hlt, hwidth⟩ := mem_residualFields hf
    rwa [hwidth]

/-- Every field of a phase is read back whole at its position. -/
theorem phaseValue_field (hlen : codes.length = 16) (hcodes : ∀ c ∈ codes, c ≤ 2047) {m v n : Nat}
    (h : (phaseFields codes)[m]? = some (v, n)) :
    phaseValue codes / 2 ^ fieldBits ((phaseFields codes).take m) % 2 ^ n = v := by
  rw [phaseValue, packFields_div_mod h]
  exact Nat.mod_eq_of_lt (phaseFields_fits hlen hcodes _ (List.mem_of_getElem? h))

theorem phaseValue_header (hlen : codes.length = 16) (hcodes : ∀ c ∈ codes, c ≤ 2047) :
    phaseMax (phaseValue codes) = (headOf codes).mx ∧ phaseMin (phaseValue codes) = (headOf codes).mn ∧
    phaseImax (phaseValue codes) = (headOf codes).imax ∧ phaseImin (phaseValue codes) = (headOf codes).imin := by
  refine ⟨?_, phaseValue_field hlen hcodes (m := 1) rfl, phaseValue_field hlen hcodes (m := 2) rfl,
    phaseValue_field hlen hcodes (m := 3) rfl⟩
  simpa [phaseMax, fieldBits] using phaseValue_field hlen hcodes (m := 0) rfl

theorem fieldBits_phaseFields_take {m : Nat} (h : m ≤ (residualFields (headOf codes) 0 codes).length) :
    fieldBits ((phaseFields codes).take (m + 4)) = 30 + 7 * m := by
  have hres : fieldBits ((residualFields (headOf codes) 0 codes).take m) = 7 * m := by
    rw [fieldBits_of_width fun f hf => (mem_residualFields (List.mem_of_mem_take hf)).2, List.length_take_of_le h]
  simp only [phaseFields, List.cons_append, List.nil_append, List.take_succ_cons, fieldBits, hres]
  omega

theorem residualIndex_phaseValue (hlen : codes.length = 16) (hcodes : ∀ c ∈ codes, c ≤ 2047) (i : Nat) :
    residualIndex (phaseValue codes) i = residualCount (headOf codes) (List.range i) := by
  obtain ⟨-, -, himax, himin⟩ := phaseValue_header hlen hcodes
  rw [residualIndex, himax, himin]
  rfl

theorem phaseResidual_phaseValue (hlen : codes.length = 16) (hcodes : ∀ c ∈ codes, c ≤ 2047) {i c : Nat}
    (hc : codes[i]? = some c) (hi : ¬(i = (headOf codes).imax ∨ i = (headOf codes).imin)) :
    phaseResidual (phaseValue codes) i = encodeResidual (headOf codes) c := by
  have hres := residualFields_getElem? (i := 0) hc (by rwa [Nat.zero_add])
  rw [← List.range_eq_range'] at hres
  have hle := (List.getElem?_eq_some_iff.1 hres).1.le
  rw [phaseResidual, residualIndex_phaseValue hlen hcodes, ← fieldBits_phaseFields_take hle]
  exact phaseValue_field hlen hcodes hres

/-- 14 of the 16 elements have a residual. -/
theorem residualCount_headOf (hlen : codes.length = 16) : residualCount (headOf codes) (List.range 16) = 14 := by
  obtain ⟨hmax, hmin, hne, -⟩ := scanFindsFirstExtremes codes hlen
  exact residualCount_range hmax hmin hne

theorem fieldBits_phaseFields (hlen : codes.length = 16) : fieldBits (phaseFields codes) = 128 := by
  have hres : (residualFields (headOf codes) 0 codes).length = 14 := by
    rw [residualFields_length, hlen, ← List.range_eq_range', residualCount_headOf hlen]
  have htake := fieldBits_phaseFields_take hres.ge
  rwa [List.take_of_length_le (by simp [phaseFields, hres])] at htake

end phase

/-- Settles O39: every field is read back at its position, where the decoder takes the same elements for imax and
imin, and a code below max loses of its distance to min only what the shift drops. -/
theorem phaseRoundTripOfCodes : Obligations.PhaseRoundTripOfCodes := by
  unfold Obligations.PhaseRoundTripOfCodes
  intro codes hlen hcodes
  obtain ⟨hmax, hmin, himax, himin⟩ := phaseValue_header hlen hcodes
  refine ⟨fieldBits_phaseFields hlen, phaseFields_fits hlen hcodes, ?_, hmax, hmin, himax, himin, fun i c hc => ?_⟩
  · rw [phaseBits, residualIndex_phaseValue hlen hcodes, residualCount_headOf hlen]
  rw [phaseCode, hmax, hmin, himax, himin]
  split_ifs with hi hj
  · rfl
  · rfl
  · obtain ⟨-, -, -, hbounds, -⟩ := scanFindsFirstExtremes codes hlen
    have hmem := List.mem_of_getElem? hc
    obtain ⟨hlow, hhigh⟩ := hbounds c hmem
    have hcode := hcodes c hmem
    have hround := Nat.div_mul_le_self (c - (headOf codes).mn)
      (2 ^ residualShift ((headOf codes).mx - (headOf codes).mn))
    rw [phaseResidual_phaseValue hlen hcodes hc (not_or.2 ⟨hi, hj⟩), encodeResidual_of_le hhigh, Nat.add_comm]
    exact min_eq_right (by omega)

end Sys2Proof.Machine
end

section
/-!
SUPPORT and the statement about GO (60_exceptions.md): a host write of GO starts a run or is ignored (GoStartsRun).
Before it stand the rules of a host write to the window: the step that takes it off the schedule, its effect at a
CSR's offset, and its effect at CTRL.
-/

namespace Sys2Proof.Machine

/-- The enables a state already has are written without effect. -/
theorem writeEnables_self {s : State} {v : Word} (hdone : v.getLsbD 1 = s.ieDone) (hfault : v.getLsbD 2 = s.ieFault) :
    s.writeEnables v = s := by
  rw [State.writeEnables, hdone, hfault]

/-- A step that takes an aligned host write to the window off the schedule. -/
theorem step_regWrite {s : State} {off : Nat} {v : Word} {rest : List HostEvent}
    (hin : s.inputs = .regWrite (s.mmioBase + off) 4 v :: rest) (hlt : off < 512) (hal : off % 4 = 0) :
    step s = .next ({ s with inputs := rest }.hostWrite off v) := by
  have hstep : step s = hostStep (.regWrite (s.mmioBase + off) 4 v) { s with inputs := rest } := by
    simp only [step, machineStep, hin]
  rw [hstep]
  exact windowAccess_aligned { s with inputs := rest } _ hlt hal

/-- A host write to a CSR's offset, while idle and while busy (10_state.md R47, R48). -/
theorem hostWrite_csr (s : State) (c : Csr) (v : Word) :
    s.hostWrite (4 * (csrNum c).toNat) v = if s.busy then s.busyWriteCsr c v else s.hostWriteCsr c v := by
  have hreg : windowReg (4 * (csrNum c).toNat) = .csr c := (windowReg_eq_csr (Nat.mul_mod_right 4 _)).2 rfl
  simp only [State.hostWrite, hreg]

/-- A host write to CTRL takes the enables of its word, and its GO is honoured only while idle (10_state.md R30). -/
theorem hostWrite_ctrl (s : State) (v : Word) :
    s.hostWrite 4 v = if !s.busy && v.getLsbD 0 then (s.writeEnables v).go else s.writeEnables v := by
  have hctrl : s.hostWrite 4 v = if s.busy then s.writeEnables v else s.hostWriteCsr .ctrl v := hostWrite_csr s .ctrl v
  rw [hctrl]
  cases s.busy
  · rfl
  · rfl

/-- A started run has neither DONE nor FAULT, so IRQ is low (60_exceptions.md R223, R224). -/
theorem go_irq (s : State) : s.go.irq = false := rfl

/-- Settles O55: the write lands at CTRL with the enables as they are, so what is left of it is GO, which starts a
run while idle and is ignored while busy. -/
theorem goStartsRun : Obligations.GoStartsRun := by
  unfold Obligations.GoStartsRun
  intro s v rest hin hgo hdone hfault
  have hstep := step_regWrite hin (by decide) (by decide)
  rw [hostWrite_ctrl, writeEnables_self (s := { s with inputs := rest }) hdone hfault, hgo] at hstep
  refine ⟨fun hidle => ?_, fun hbusy => ?_⟩
  · exact ⟨State.go { s with inputs := rest }, by simpa [hidle] using hstep, rfl, go_irq _⟩
  · simpa [hbusy] using hstep

end Sys2Proof.Machine
end

section
/-!
SUPPORT and the statements about the encoding (30_encoding.md) and the sequencer (40_control.md): the two directions of
the encoding (DecodeOfEncode, EncodeOfDecode), the terms no word encodes (IllFormedTermsFault), a step as its decoded
command (StepRunsDecodedCommand) and an idle step (IdleKeepsState).  Before them stand the fields of a word and the
word of its fields as inverses, the immediates and the operands they carry as inverses, and what an accepted row says.
-/

namespace Sys2Proof

/-! ### Words and their fields (30_encoding.md R85) -/

theorem wordOf_toNat (f : Fields) :
    (wordOf f).toNat = f.op.toNat * 2 ^ 24 + f.a.val * 2 ^ 20 + f.b.val * 2 ^ 16 + f.imm.toNat := by
  have ha := f.a.isLt
  have hb := f.b.isLt
  have hi := f.imm.isLt
  simp only [wordOf, BitVec.toNat_append, BitVec.toNat_ofFin]
  rw [← Nat.shiftLeft_add_eq_or_of_lt hi, ← Nat.shiftLeft_add_eq_or_of_lt hb, ← Nat.shiftLeft_add_eq_or_of_lt ha]
  simp only [Nat.shiftLeft_eq]
  omega

theorem Fields.ext_toNat {f g : Fields} (hop : f.op.toNat = g.op.toNat) (ha : f.a.val = g.a.val)
    (hb : f.b.val = g.b.val) (himm : f.imm.toNat = g.imm.toNat) : f = g := by
  obtain ⟨op, a, b, imm⟩ := f
  simp_all [BitVec.toNat_inj, Fin.val_inj]

theorem fieldsOf_wordOf (f : Fields) : fieldsOf (wordOf f) = f := by
  have hop := f.op.isLt
  have ha := f.a.isLt
  have hb := f.b.isLt
  have hi := f.imm.isLt
  have hw := wordOf_toNat f
  apply Fields.ext_toNat
  · rw [fieldsOf_op]; omega
  · rw [fieldsOf_a]; omega
  · rw [fieldsOf_b]; omega
  · rw [fieldsOf_imm]; omega

theorem wordOf_fieldsOf (w : Word) : wordOf (fieldsOf w) = w := by
  apply BitVec.eq_of_toNat_eq
  rw [wordOf_toNat, fieldsOf_op, fieldsOf_a, fieldsOf_b, fieldsOf_imm]
  omega

/-! ### Immediates and the operands they carry (30_encoding.md R87) -/

theorem immCount_setWidth (n : BitVec 6) : immCount (n.setWidth 16) = n := by
  simp [immCount]

theorem immLegal_count {n : BitVec 6} (h : widthLegal n = true) : immLegal .n (n.setWidth 16) = true := by
  rw [immLegal, BitVec.toNat_setWidth_of_le (by decide)]
  exact h

theorem setWidth_immCount {imm : BitVec 16} (h : immLegal .n imm = true) :
    (immCount imm).setWidth 16 = imm ∧ widthLegal (immCount imm) = true := by
  have hle : imm.toNat ≤ 32 := of_decide_eq_true h
  have hcount : (immCount imm).toNat = imm.toNat := by
    rw [immCount, BitVec.toNat_setWidth]
    omega
  refine ⟨BitVec.eq_of_toNat_eq ?_, decide_eq_true (hcount ▸ hle)⟩
  rw [BitVec.toNat_setWidth_of_le (by decide), hcount]

theorem immPhase_ofNat : ∀ j : Phase, immPhase (BitVec.ofNat 16 j.val) = j := by decide

theorem immLegal_phase : ∀ j : Phase, immLegal .j (BitVec.ofNat 16 j.val) = true := by decide

theorem ofNat_immPhase {imm : BitVec 16} (h : immLegal .j imm = true) :
    BitVec.ofNat 16 (immPhase imm).val = imm := by
  have hle : imm.toNat ≤ 1 := of_decide_eq_true h
  have hphase : (immPhase imm).val = imm.toNat % 2 := by simp [immPhase]
  apply BitVec.eq_of_toNat_eq
  rw [hphase, BitVec.toNat_ofNat]
  omega

theorem csrOfNum_setWidth (c : Csr) : csrOfNum ((csrNum c).setWidth 16).toNat = some c := by
  cases c <;> rfl

theorem immCsr_setWidth (c : Csr) : immCsr ((csrNum c).setWidth 16) = c := by
  rw [immCsr, csrOfNum_setWidth, Option.getD_some]

theorem immLegal_csr (c : Csr) : immLegal .csr ((csrNum c).setWidth 16) = true := by
  rw [immLegal, csrOfNum_setWidth, Option.isSome_some]

theorem setWidth_immCsr {imm : BitVec 16} (h : immLegal .csr imm = true) :
    (csrNum (immCsr imm)).setWidth 16 = imm := by
  obtain ⟨c, hc⟩ := Option.isSome_iff_exists.1 h
  apply BitVec.eq_of_toNat_eq
  rw [immCsr, hc, Option.getD_some, BitVec.toNat_setWidth_of_le (by decide)]
  exact (Machine.csrOfNum_eq_some.1 hc).symm

/-! ### Rows of the opcode map (30_encoding.md R89, R92) -/

theorem accept_eq_ok {f : Fields} {usesA usesB : Bool} {k : ImmKind} {i i' : Instr} :
    accept f usesA usesB k i = .ok i' ↔
      (usesA = true ∨ f.a = 0) ∧ (usesB = true ∨ f.b = 0) ∧ immLegal k f.imm = true ∧ i = i' := by
  unfold accept
  cases usesA <;> cases usesB <;> split_ifs <;> simp_all

/-- The decoder answers a command on the fields the encoder gives it. -/
theorem decode_encode {i : Instr} (h : i.wellFormed = true) : decode (encode i) = .ok i := by
  simp only [decode, encode, fieldsOf_wordOf]
  cases i with
  | brPeek _ n | brGet _ n | brSkip n | bwPut _ n =>
    simp [encodeFields, accept_eq_ok, immCount_setWidth, immLegal_count (n := n) h]
  | csrr _ c | csrw c _ => simp [encodeFields, accept_eq_ok, immCsr_setWidth, immLegal_csr]
  | dcDph _ j | dcEph _ j => simp [encodeFields, accept_eq_ok, immPhase_ofNat, immLegal_phase]
  | _ => simp [encodeFields, accept_eq_ok, immLegal]

/-- A row that accepts gives a well-formed command, whose fields are all those of the word, if its opcode is the row's
and what it puts in each other field is what the check of that field lets through. -/
theorem encodeFields_of_accept {f : Fields} {usesA usesB : Bool} {k : ImmKind} {i i' : Instr}
    (h : accept f usesA usesB k i = .ok i') (hop : (encodeFields i).op.toNat = f.op.toNat)
    (ha : usesA = true ∨ f.a = 0 → f.a = (encodeFields i).a) (hb : usesB = true ∨ f.b = 0 → f.b = (encodeFields i).b)
    (himm : immLegal k f.imm = true → (encodeFields i).imm = f.imm ∧ i.wellFormed = true) :
    i'.wellFormed = true ∧ encodeFields i' = f := by
  obtain ⟨hA, hB, hImm, rfl⟩ := accept_eq_ok.1 h
  obtain ⟨himm, hwf⟩ := himm hImm
  exact ⟨hwf, Fields.ext_toNat hop (congrArg _ (ha hA).symm) (congrArg _ (hb hB).symm) (congrArg _ himm)⟩

/-- Each row of the opcode map accepts only the fields of a well-formed command. -/
theorem encodeFields_of_decode {w : Word} {i : Instr} (h : decode w = .ok i) :
    i.wellFormed = true ∧ encodeFields i = fieldsOf w := by
  simp only [decode] at h
  generalize fieldsOf w = f at h ⊢
  split at h
  case h_25 => cases h
  case h_3 | h_4 =>
    next hop =>
    exact encodeFields_of_accept h hop.symm (by simp [encodeFields]) (by simp [encodeFields]) fun _ => ⟨rfl, rfl⟩
  case h_5 | h_6 =>
    next hop =>
    exact encodeFields_of_accept h hop.symm (by simp [encodeFields]) (by simp [encodeFields]) fun hcsr =>
      ⟨setWidth_immCsr hcsr, rfl⟩
  case h_8 | h_9 | h_10 | h_12 =>
    next hop =>
    exact encodeFields_of_accept h hop.symm (by simp [encodeFields]) (by simp [encodeFields]) setWidth_immCount
  case h_19 | h_20 =>
    next hop =>
    exact encodeFields_of_accept h hop.symm (by simp [encodeFields]) (by simp [encodeFields]) fun hphase =>
      ⟨ofNat_immPhase hphase, rfl⟩
  all_goals
    next hop =>
    exact encodeFields_of_accept h hop.symm (by simp [encodeFields]) (by simp [encodeFields])
      fun hzero => ⟨(eq_of_beq hzero).symm, rfl⟩

theorem leWord_leBytes (k v : Nat) : leWord (leBytes k v) = v % 256 ^ k := by
  induction k generalizing v with
  | zero => simp [leBytes, leWord, Nat.mod_one]
  | succ k ih =>
    rw [leBytes, leWord, ih, Nat.pow_succ', Nat.mod_mul]
    rfl

theorem decodeBytes_leBytes (w : Word) : decodeBytes (leBytes 4 w.toNat) = (decode w).map (·, []) := by
  have hword : BitVec.ofNat 32 (leWord (leBytes 4 w.toNat)) = w := by
    rw [leWord_leBytes, Nat.mod_eq_of_lt (b := 256 ^ 4) w.isLt, BitVec.ofNat_toNat, BitVec.setWidth_eq]
  calc decodeBytes (leBytes 4 w.toNat)
      = (decode (BitVec.ofNat 32 (leWord (leBytes 4 w.toNat)))).map (·, []) := rfl
    _ = (decode w).map (·, []) := by rw [hword]

end Sys2Proof

namespace Sys2Proof.Machine

/-- Settles O2: the fields of a word are those it was made of, and each immediate gives its operand back. -/
theorem decodeOfEncode : Obligations.DecodeOfEncode := by
  unfold Obligations.DecodeOfEncode
  intro i hi
  have hdec := decode_encode hi
  exact ⟨hdec, by rw [decodeBytes_leBytes, hdec]; rfl⟩

/-- Settles O3: a row accepts only the fields of its command, and a word is that of its fields. -/
theorem encodeOfDecode : Obligations.EncodeOfDecode := by
  unfold Obligations.EncodeOfDecode
  intro w i hi
  obtain ⟨hwf, hfields⟩ := encodeFields_of_decode hi
  exact ⟨hwf, by rw [encode, hfields, wordOf_fieldsOf]⟩

theorem withCount_of_illegal {n : BitVec 6} (h : widthLegal n = false) (i : Instr) (s : State) (r : Res Unit) :
    withCount i n s r = .raise .illegalCommand (encode i) s :=
  if_neg (by simp [h])

/-- Settles O5: only the commands with a bit count can be ill-formed, and they check it first. -/
theorem illFormedTermsFault : Obligations.IllFormedTermsFault := by
  unfold Obligations.IllFormedTermsFault
  intro i s h
  cases i with
  | brPeek | brGet | brSkip | bwPut =>
    exact exec_of_work_raise (c := .illegalCommand) (by simp) (withCount_of_illegal h ..)
  | _ => cases h

/-! ### The sequencer (40_control.md R100) -/

theorem step_of_no_inputs {s : State} (h : s.inputs = []) : step s = seqStep s := by
  simp only [step, machineStep, h]

/-- A step that takes an event off the schedule. -/
theorem step_of_inputs {s : State} {e : HostEvent} {rest : List HostEvent} (h : s.inputs = e :: rest) :
    step s = hostStep e { s with inputs := rest } := by
  simp only [step, machineStep, h]

theorem seqStep_of_fetch {s t : State} {w : Word} {i : Instr} (hb : s.busy = true) (hh : s.hung = false)
    (hf : s.fetch = .ok w t) (hd : decode w = .ok i) : seqStep s = exec i t := by
  simp [seqStep, hb, hh, hf, hd]

/-- The bytes a settled fetch reads are those the decoder is given. -/
theorem decode_leValue {s : State} {i : Instr}
    (h : decodeBytes [s.byteAt s.cp, s.byteAt (s.cp + 1), s.byteAt (s.cp + 2), s.byteAt (s.cp + 3)] = .ok (i, [])) :
    decode (BitVec.ofNat 32 (s.leValue 4 s.cp)) = .ok i := by
  have hval : s.leValue 4 s.cp =
      leWord [s.byteAt s.cp, s.byteAt (s.cp + 1), s.byteAt (s.cp + 2), s.byteAt (s.cp + 3)] := by
    simp only [State.leValue, leWord, BitVec.add_assoc]
    rfl
  rw [decodeBytes, ← hval] at h
  cases hd : decode (BitVec.ofNat 32 (s.leValue 4 s.cp)) with
  | error e => rw [hd] at h; cases h
  | ok i' => rw [hd] at h; cases h; rfl

/-- Settles O6: the fetch reads the four bytes, or what the races give, and the step runs what they decode to. -/
theorem stepRunsDecodedCommand : Obligations.StepRunsDecodedCommand := by
  unfold Obligations.StepRunsDecodedCommand
  refine ⟨fun s i hb hh hset hd => ?_, fun s t w i hb hh hin hf hd => ?_⟩
  · have hrun (l : List HostEvent) : seqStep { s with inputs := l } = exec i { s with inputs := l } :=
      seqStep_of_fetch hb hh (fetch_of_settled (s := { s with inputs := l }) hset)
        (decode_leValue (s := { s with inputs := l }) hd)
    refine ⟨fun hin => ?_, fun rest hin => ?_⟩
    · rw [step_of_no_inputs hin]
      exact hrun s.inputs
    · rw [step_of_inputs hin]
      exact hrun rest
  · have hsame : SameButDraws s t := by simpa only [hf, Res.final_ok] using fetch_same s
    exact ⟨by rw [step_of_no_inputs hin, seqStep_of_fetch hb hh hf hd], hsame⟩

/-- Settles O7: the sequencer of an idle block makes no move. -/
theorem idleKeepsState : Obligations.IdleKeepsState := by
  unfold Obligations.IdleKeepsState
  intro s hin hidle
  rw [step_of_no_inputs hin, seqStep, hidle]
  rfl

end Sys2Proof.Machine
end

section
/-!
SUPPORT and the statements about every command: the four ways it can end (CommandPointerMoves), what a fault keeps
(FaultEntry), what each command may change (OnlyNamedCommandsChange).  Before them stand what the work of every command
keeps of the sequencer, what a command that does not complete leaves, and the units each command may write.
-/

namespace Sys2Proof.Machine

/-! ### What no work of a command touches -/

/-- The sequencer's registers, CTRL and STATUS but TC_VALID, the fault registers, the stuck condition, the platform,
the schedule and what the host has read are the same. -/
def SameSequencer (s t : State) : Prop :=
  t = { t with cp := s.cp, cmdCount := s.cmdCount, ieDone := s.ieDone, ieFault := s.ieFault, busy := s.busy,
               done := s.done, fault := s.fault, cmdBase := s.cmdBase, faultCode := s.faultCode,
               faultInfo := s.faultInfo, hung := s.hung, holes := s.holes, mmioBase := s.mmioBase,
               inputs := s.inputs, hostData := s.hostData }

theorem SameSequencer.trans {s t u : State} (h : SameSequencer s t) (k : SameSequencer t u) : SameSequencer s u := by
  unfold SameSequencer at *
  rw [k, h]

theorem SameSequencer.control {s t : State} (h : SameSequencer s t) : SameControl s t := by
  rw [h]
  exact ⟨rfl, rfl, rfl, rfl, rfl, rfl, rfl, rfl, rfl⟩

theorem SameSequencer.outside {s t : State} (h : SameSequencer s t) (hw : t.writesLeft = s.writesLeft) :
    SameOutside s t :=
  ⟨by rw [h], by rw [h], hw, by rw [h], by rw [h]⟩

theorem SameSequencer.cp {s t : State} (h : SameSequencer s t) : t.cp = s.cp := by rw [h]
theorem SameSequencer.cmdCount {s t : State} (h : SameSequencer s t) : t.cmdCount = s.cmdCount := by rw [h]
theorem SameButDecode.sequencer {s t : State} (h : SameButDecode s t) : SameSequencer s t := by rw [h]; exact Eq.refl _
theorem SameButEncode.sequencer {s t : State} (h : SameButEncode s t) : SameSequencer s t := by rw [h]; exact Eq.refl _

theorem writeCsr_sequencer {s t : State} {c : Csr} {v : Word} (h : s.writeCsr c v = some t) : SameSequencer s t := by
  cases c <;> cases h <;> rfl

theorem primitivesKeep_sequencer (s : State) : PrimitivesKeep (SameSequencer s) where
  reg _ _ h := h.trans rfl
  seed _ h := h.trans rfl
  reader _ _ h := h.trans rfl
  writer _ _ h := h.trans rfl
  load a n h := h.trans (memRead_same a n _).encode.sequencer
  store n a v h := h.trans (memWrite_same n a v _).encode.sequencer
  peeked _ h := h.trans (peek_same _ _).decode.sequencer
  consumed _ h := h.trans (consume_same _ _).decode.sequencer
  pushed v n h := h.trans (push_same v n _).sequencer

theorem commandWork_sequencer (i : Instr) (s : State) : SameSequencer s (commandWork i s).final :=
  commandWork_keeps (primitivesKeep_sequencer s) i rfl (fun _ _ _ _ h => writeCsr_sequencer h) (fun _ _ _ => rfl)

/-! ### Properties that do not speak of the units' registers -/

/-- A property that survives any change of the registers, RNG, the reader and the writer is kept by every primitive if
reads and stores of memory keep it. -/
theorem primitivesKeep_of_memory {P : State → Prop}
    (registers : ∀ {s : State} x rng br bw, P s → P { s with x := x, rng := rng, br := br, bw := bw })
    (load : ∀ {s} a n, P s → P (memRead a n s).final)
    (store : ∀ {s} n a v, P s → P (memWrite n a v s).final) : PrimitivesKeep P where
  reg {s} _ _ h := registers _ s.rng s.br s.bw h
  seed {s} _ h := registers s.x _ s.br s.bw h
  reader {s} _ _ h := registers s.x s.rng _ s.bw h
  writer {s} _ _ h := registers s.x s.rng s.br _ h
  load := load
  store := store
  peeked {s n} _ h := by
    unfold peek
    refine Res.final_bind_of (P := P) ?_ fun _ _ _ ht => ht
    split
    · unfold refill
      split
      · exact h
      · exact Res.final_bind_of (load _ _ h) fun _ t _ ht => registers t.x t.rng _ t.bw ht
    · exact h
  consumed {s n} _ h := by
    unfold consume
    split
    · exact h
    · exact registers s.x s.rng _ s.bw h
  pushed {s} v n h := by
    have emit (m acc : Nat) (t : State) (ht : P t) : P (emitBytes m acc t).final := by
      induction m generalizing acc t with
      | zero => exact ht
      | succ m ih =>
        exact Res.final_bind_of (store _ _ _ ht) fun _ u _ hu => ih _ _ (registers u.x u.rng u.br _ hu)
    unfold push
    split
    · exact h
    · exact Res.final_bind_of (emit _ _ s h) fun _ t _ ht => registers t.x t.rng t.br _ ht

/-- Every command keeps memory canonical. -/
theorem primitivesKeep_canonical : PrimitivesKeep fun s => s.mem.wf = true :=
  primitivesKeep_of_memory (fun _ _ _ _ h => h)
    (fun a n h => by rwa [(memRead_same a n _)])
    (fun n a v h => memWrite_wf n a v _ h)

/-- Outside a reset no count of writes is pending. -/
theorem primitivesKeep_settled : PrimitivesKeep fun s => s.writesLeft = none :=
  primitivesKeep_of_memory (fun _ _ _ _ h => h)
    (fun a n h => by rwa [(memRead_same a n _)])
    (fun n a v h => memWrite_writesLeft n a v _ h)

theorem commandWork_canonical (i : Instr) {s : State} (h : s.mem.wf = true) : (commandWork i s).final.mem.wf = true :=
  commandWork_keeps primitivesKeep_canonical i h
    (fun c _ _ _ ht => by cases c <;> cases ht <;> exact h) (fun _ _ _ => h)

theorem commandWork_settled (i : Instr) {s : State} (h : s.writesLeft = none) :
    (commandWork i s).final.writesLeft = none :=
  commandWork_keeps primitivesKeep_settled i h
    (fun _ _ _ _ ht => by rw [writeCsr_sameUnits ht]; exact h) (fun _ _ _ => h)

/-! ### The end of a command -/

/-- The four ways a command can end (10_state.md R24, 40_control.md R107). -/
theorem exec_cases {i : Instr} {s t : State} (h : exec i s = .next t) :
    (i = .stop ∧ t = s.stopRun) ∨
    (i ≠ .stop ∧
      ((∃ u, commandWork i s = .ok () u ∧ t = u.retire) ∨
       (∃ c info u, commandWork i s = .raise c info u ∧ t = u.enterFault c info) ∨
       ∃ u, commandWork i s = .stuck u ∧ t = u.hang)) := by
  by_cases hi : i = .stop
  · subst hi
    cases h
    exact .inl ⟨rfl, rfl⟩
  · rw [exec_of_ne_stop hi] at h
    exact .inr ⟨hi, conclude_cases h⟩

/-- Every command answers a next state. -/
theorem exec_next (i : Instr) (s : State) : ∃ t, exec i s = .next t := by
  by_cases hi : i = .stop
  · subst hi
    exact ⟨_, rfl⟩
  · rw [exec_of_ne_stop hi]
    exact conclude_next _

/-- Settles O45: the work of a command leaves the sequencer as it is, so its end alone decides. -/
theorem commandPointerMoves : Obligations.CommandPointerMoves := by
  unfold Obligations.CommandPointerMoves
  intro i s hbusy hfault hhung
  obtain ⟨t, ht⟩ := exec_next i s
  refine ⟨t, ht, ?_⟩
  rcases exec_cases ht with ⟨hi, rfl⟩ | ⟨hi, ⟨u, hu, rfl⟩ | ⟨c, info, u, hu, rfl⟩ | ⟨u, hu, rfl⟩⟩
  · exact .inr (.inl ⟨hi, rfl, rfl, hfault, rfl, rfl⟩)
  all_goals
    have hseq := commandWork_sequencer i s
    rw [hu] at hseq
    have hc := hseq.control
  · exact .inl ⟨hi, hc.busy.trans hbusy, hc.fault.trans hfault, hc.hung.trans hhung, congrArg (· + 4) hseq.cp,
      congrArg (· + 1) hseq.cmdCount⟩
  · exact .inr (.inr (.inl ⟨hi, rfl, rfl, hc.hung.trans hhung, hseq.cp, hseq.cmdCount⟩))
  · exact .inr (.inr (.inr ⟨hi, hc.busy.trans hbusy, hc.fault.trans hfault, rfl, hseq.cp, hseq.cmdCount⟩))

/-! ### A command that does not complete -/

/-- A work that completes, or leaves at most what the decoder or the encoder writes: no register, no curve, no
geometry. -/
def CompletesOr (s : State) (r : Res Unit) : Prop :=
  (∃ u, r = .ok () u) ∨ SameButDecode s r.final ∨ SameButEncode s r.final

theorem CompletesOr.done (s u : State) : CompletesOr s (.ok () u) := .inl ⟨u, rfl⟩

theorem CompletesOr.refused (s : State) (c : FaultCode) (info : Word) : CompletesOr s (.raise c info s) :=
  .inr (.inl .rfl)

/-- Reading primitives before the write of the destination. -/
theorem CompletesOr.setX {s : State} {q : Res Word} (h : SameButDecode s q.final) (rd : Reg) :
    CompletesOr s (q.bind fun v t => .ok () (t.setX rd v)) := by
  cases q with
  | ok v t => exact .done s _
  | raise c info t => exact .inr (.inl h)
  | stuck t => exact .inr (.inl h)

theorem CompletesOr.withCount {s : State} {r : Res Unit} (h : CompletesOr s r) (i : Instr) (n : BitVec 6) :
    CompletesOr s (withCount i n s r) := by
  unfold Machine.withCount
  split
  · exact h
  · exact .refused s _ _

theorem CompletesOr.requireTable {s : State} {f : Unit → State → Res Unit} (h : CompletesOr s (f () s)) :
    CompletesOr s ((requireTable s).bind f) := by
  unfold Machine.requireTable
  split
  · exact h
  · exact .refused s _ _

theorem CompletesOr.requireBelow {s : State} {limit : Nat} {v : Word} {f : Unit → State → Res Unit}
    (h : CompletesOr s (f () s)) : CompletesOr s ((requireBelow limit v s).bind f) := by
  unfold Machine.requireBelow
  split
  · exact h
  · exact .refused s _ _

theorem drowWork_same (ra rb : Reg) (s : State) : SameButDecode s
    ((checkWidth s).bind fun w t => decodeRow (t.getX ra) (t.getX rb) w t).final :=
  Res.final_bind_of (by rw [checkWidth_final]; exact .rfl) fun _ t _ ht => ht.trans (decodeRow_same _ _ _ t)

theorem erowWork_same (ra rb : Reg) (s : State) : SameButEncode s
    ((checkWidth s).bind fun w t => encodeRow (t.getX ra) (t.getX rb) w t).final :=
  Res.final_bind_of (by rw [checkWidth_final]; exact .rfl) fun _ t _ ht => ht.trans (encodeRow_same _ _ _ t)

theorem decWork_same (ra rb : Reg) (s : State) : SameButDecode s
    ((checkDecodeGeometry s).bind fun w t =>
      decodeImage (t.getX ra) (t.getX rb) w t.rowStride t.gHeight.toNat t).final :=
  Res.final_bind_of (by rw [checkDecodeGeometry_final]; exact .rfl) fun _ t _ ht =>
    ht.trans (decodeImage_same _ _ _ _ _ t)

theorem encWork_same (ra rb : Reg) (s : State) : SameButEncode s
    ((checkWidth s).bind fun w t => encodeImage (t.getX ra) (t.getX rb) w t.gHeight.toNat t).final :=
  Res.final_bind_of (by rw [checkWidth_final]; exact .rfl) fun _ t _ ht => ht.trans (encodeImage_same _ _ _ _ t)

/-- The work of every command completes or is cut off before it has written a register, the curve or the geometry. -/
theorem commandWork_completesOr (i : Instr) (s : State) : CompletesOr s (commandWork i s) := by
  cases i with
  | csrw c rs =>
    simp only [commandWork]
    split
    · exact .done s _
    · exact .refused s _ _
  | brPeek rd n => exact (CompletesOr.setX (peek_same _ s).decode rd).withCount _ n
  | brGet rd n => exact (CompletesOr.setX (getBits_same _ s).decode rd).withCount _ n
  | brSkip n => exact CompletesOr.withCount (.inr (.inl (consume_same _ s).decode)) _ n
  | bwPut rs n => exact CompletesOr.withCount (.inr (.inr (push_same _ _ s))) _ n
  | bwFin rd => exact CompletesOr.setX (by rw [finish_final]; exact .rfl) rd
  | tcBuild =>
    simp only [commandWork]
    split
    · exact .done s _
    · exact .refused s _ _
  | tcDith | tcRlk | tcCtr | tcBd => exact .requireTable (.requireBelow (.done s _))
  | dcDph ra j => exact .requireTable (.inr (.inl (decodePhase_same _ _ s)))
  | dcEph ra j => exact .requireTable (.inr (.inr (encodePhase_same _ _ s)))
  | dcDrow ra rb => exact .requireTable (.inr (.inl (drowWork_same ra rb s)))
  | dcErow ra rb => exact .requireTable (.inr (.inr (erowWork_same ra rb s)))
  | dcDec ra rb => exact .requireTable (.inr (.inl (decWork_same ra rb s)))
  | dcEnc ra rb => exact .requireTable (.inr (.inr (encWork_same ra rb s)))
  | nop | stop | li | lui | csrr | brInit | bwInit => exact .done s _

/-- What a command that does not complete leaves as it was. -/
theorem interrupted_same {i : Instr} {s : State} (h : ∀ u, commandWork i s ≠ .ok () u) :
    (commandWork i s).final.x = s.x ∧ SameCurve s (commandWork i s).final ∧ SameGeometry s (commandWork i s).final := by
  rcases commandWork_completesOr i s with ⟨v, hv⟩ | hd | he
  · exact absurd hv (h v)
  · exact ⟨by rw [hd], hd.curve, by rw [hd]; exact ⟨rfl, rfl, rfl, rfl⟩⟩
  · exact ⟨by rw [he], he.curve, by rw [he]; exact ⟨rfl, rfl, rfl, rfl⟩⟩

theorem faultNum_bounds (c : FaultCode) : 1 ≤ (faultNum c).toNat ∧ (faultNum c).toNat ≤ 11 := by
  cases c <;> decide

/-- Only the end by a fault sets FAULT. -/
theorem exec_fault_cases {i : Instr} {s t : State} (hfault : s.fault = false) (ht : exec i s = .next t)
    (hset : t.fault = true) : ∃ c info u, commandWork i s = .raise c info u ∧ t = u.enterFault c info := by
  rcases exec_cases ht with ⟨_, rfl⟩ | ⟨_, ⟨u, hu, rfl⟩ | hraise | ⟨u, hu, rfl⟩⟩
  · rw [State.stopRun_fault, hfault] at hset
    cases hset
  · have hkept := (commandWork_sequencer i s).control.fault
    rw [hu, Res.final_ok, hfault] at hkept
    rw [State.retire_fault, hkept] at hset
    cases hset
  · exact hraise
  · have hkept := (commandWork_sequencer i s).control.fault
    rw [hu, Res.final_stuck, hfault] at hkept
    rw [State.hang_fault, hkept] at hset
    cases hset

/-- Settles O46: what the work did before the fault reaches no register, no curve and no geometry. -/
theorem faultEntry : Obligations.FaultEntry := by
  unfold Obligations.FaultEntry
  intro i s t hfault hwl ht hset
  obtain ⟨c, info, u, hu, rfl⟩ := exec_fault_cases hfault ht hset
  have hseq := commandWork_sequencer i s
  have hsame := interrupted_same (i := i) (s := s) (by simp [hu])
  have hsettled := commandWork_settled i hwl
  rw [hu, Res.final_raise] at hseq hsame hsettled
  obtain ⟨hx, hcurve, hgeometry⟩ := hsame
  obtain ⟨hlow, hhigh⟩ := faultNum_bounds c
  have hc := hseq.control
  have hout := hseq.outside (hsettled.trans hwl.symm)
  have hcp : u.cp = s.cp := hseq.cp
  have hcount : u.cmdCount = s.cmdCount := hseq.cmdCount
  have hregs (r : Reg) : u.getX r = s.getX r := by rw [State.getX, State.getX, hx]
  have hirq : (u.enterFault c info).irq = ((s.done && s.ieDone) || s.ieFault) := by
    rw [← hc.done, ← hc.ieDone, ← hc.ieFault]
    rfl
  exact ⟨rfl, hlow, hhigh, hcp, hcount, hregs, hc.done, hc.ieDone, hc.ieFault,
    hc.cmdBase, hc.hung, hcurve.trans (.of_eq rfl),
    ⟨hgeometry.width, hgeometry.height, hgeometry.stride, hgeometry.srclen⟩,
    ⟨hout.holes, hout.mmioBase, hout.writesLeft, hout.inputs, hout.hostData⟩, hirq⟩

/-! ### What each command may write -/

/-- The commands that may move RNG (10_state.md R36). -/
def movesRng : Instr → Bool
  | .csrw .rng _ | .tcDith _ _ | .dcDph _ _ | .dcDrow _ _ | .dcDec _ _ => true
  | _ => false

/-- The commands that may move the bit reader (10_state.md R37). -/
def movesReader : Instr → Bool
  | .brInit _ _ | .brPeek _ _ | .brGet _ _ | .brSkip _ | .dcDph _ _ | .dcDrow _ _ | .dcDec _ _ => true
  | _ => false

/-- The commands that may move the bit writer (10_state.md R38). -/
def movesWriter : Instr → Bool
  | .bwInit _ _ | .bwPut _ _ | .dcEph _ _ | .dcErow _ _ | .dcEnc _ _ => true
  | _ => false

/-- The commands that may store bytes (20_memory.md R68). -/
def storesBytes : Instr → Bool
  | .bwPut _ _ | .dcDph _ _ | .dcEph _ _ | .dcDrow _ _ | .dcErow _ _ | .dcDec _ _ | .dcEnc _ _ => true
  | _ => false

/-- Only what the rules name for the command differs.  A part that is the same by definition need not be given. -/
structure OnlyNamed (i : Instr) (s t : State) : Prop where
  regs : ∀ r, destination i ≠ some r → t.getX r = s.getX r := by exact fun _ _ => rfl
  rng : movesRng i = false → t.rng = s.rng := by exact fun _ => rfl
  reader : movesReader i = false → t.br = s.br := by exact fun _ => rfl
  writer : movesWriter i = false → t.bw = s.bw := by exact fun _ => rfl
  mem : storesBytes i = false → t.mem = s.mem := by exact fun _ => rfl
  constants : (∀ c rs, i = .csrw c rs → isConstant c = false) → SameConstants s t := by
    exact fun _ => ⟨rfl, rfl, rfl, rfl⟩
  geometry : (∀ c rs, i = .csrw c rs → isGeometry c = false) → SameGeometry s t := by
    exact fun _ => ⟨rfl, rfl, rfl, rfl⟩

theorem OnlyNamed.refl (i : Instr) (s : State) : OnlyNamed i s s where

/-- What an end or a register write puts beside the named parts. -/
theorem OnlyNamed.congr {i : Instr} {s t u : State} (h : OnlyNamed i s t)
    (regs : ∀ r, destination i ≠ some r → u.getX r = t.getX r)
    (units : (u.rng, u.br, u.bw, u.mem) = (t.rng, t.br, t.bw, t.mem)) (constants : SameConstants t u)
    (geometry : SameGeometry t u) : OnlyNamed i s u := by
  simp only [Prod.mk.injEq] at units
  obtain ⟨hrng, hbr, hbw, hmem⟩ := units
  exact {
    regs := fun r hr => (regs r hr).trans (h.regs r hr)
    rng := fun hf => hrng.trans (h.rng hf)
    reader := fun hf => hbr.trans (h.reader hf)
    writer := fun hf => hbw.trans (h.writer hf)
    mem := fun hf => hmem.trans (h.mem hf)
    constants := fun hc => ⟨constants.bp0.trans (h.constants hc).bp0, constants.bp1.trans (h.constants hc).bp1,
      constants.bp2.trans (h.constants hc).bp2, constants.bp3.trans (h.constants hc).bp3⟩
    geometry := fun hc => ⟨geometry.width.trans (h.geometry hc).width, geometry.height.trans (h.geometry hc).height,
      geometry.stride.trans (h.geometry hc).stride, geometry.srclen.trans (h.geometry hc).srclen⟩ }

theorem OnlyNamed.setX {i : Instr} {s t : State} {rd : Reg} (h : OnlyNamed i s t) (hd : destination i = some rd)
    (v : Word) : OnlyNamed i s (t.setX rd v) :=
  h.congr (fun _ hr => t.getX_setX_other v fun he => hr (hd.trans (congrArg some he.symm))) rfl ⟨rfl, rfl, rfl, rfl⟩
    ⟨rfl, rfl, rfl, rfl⟩

/-- A command of the decoder or the encoder writes what its unit does. -/
theorem OnlyNamed.of_decode {i : Instr} {s t : State} (h : SameButDecode s t) (hrng : movesRng i = true)
    (hbr : movesReader i = true) (hmem : storesBytes i = true) : OnlyNamed i s t := by
  rw [h]
  exact { rng := by simp [hrng], reader := by simp [hbr], mem := by simp [hmem] }

theorem OnlyNamed.of_encode {i : Instr} {s t : State} (h : SameButEncode s t) (hbw : movesWriter i = true)
    (hmem : storesBytes i = true) : OnlyNamed i s t := by
  rw [h]
  exact { writer := by simp [hbw], mem := by simp [hmem] }

theorem OnlyNamed.of_reader {i : Instr} {s t : State} (h : SameButReader s t) (hbr : movesReader i = true) :
    OnlyNamed i s t := by
  rw [h]
  exact { reader := by simp [hbr] }

theorem OnlyNamed.of_csrw {c : Csr} {rs : Reg} {s t : State} {v : Word} (h : s.writeCsr c v = some t) :
    OnlyNamed (.csrw c rs) s t := by
  cases c with
  | rng =>
    cases h
    exact { rng := by simp [movesRng] }
  | tcBp0 | tcBp1 | tcBp2 | tcBp3 =>
    cases h
    exact { constants := fun hc => nomatch hc _ _ rfl }
  | gWidth | gHeight | gStride | gSrclen =>
    cases h
    exact { geometry := fun hc => nomatch hc _ _ rfl }
  | _ => cases h

/-- Primitives that keep to the command's units, before the write of its destination. -/
theorem OnlyNamed.bind_setX {i : Instr} {s : State} {q : Res Word} {rd : Reg} (h : OnlyNamed i s q.final)
    (hd : destination i = some rd) : OnlyNamed i s (q.bind fun v t => .ok () (t.setX rd v)).final := by
  cases q with
  | ok v t => exact h.setX hd v
  | raise c info t => exact h
  | stuck t => exact h

theorem OnlyNamed.requireTable {i : Instr} {s : State} {f : Unit → State → Res Unit}
    (h : OnlyNamed i s (f () s).final) : OnlyNamed i s ((requireTable s).bind f).final := by
  unfold Machine.requireTable
  split
  · exact h
  · exact .refl i s

theorem OnlyNamed.requireBelow {i : Instr} {s : State} {limit : Nat} {v : Word} {f : Unit → State → Res Unit}
    (h : OnlyNamed i s (f () s).final) : OnlyNamed i s ((requireBelow limit v s).bind f).final := by
  unfold Machine.requireBelow
  split
  · exact h
  · exact .refl i s

theorem OnlyNamed.withCount {i j : Instr} {s : State} {n : BitVec 6} {r : Res Unit} (h : OnlyNamed i s r.final) :
    OnlyNamed i s (withCount j n s r).final :=
  withCount_keeps (P := OnlyNamed i s) (.refl i s) fun _ => h

theorem commandWork_onlyNamed (i : Instr) (s : State) : OnlyNamed i s (commandWork i s).final := by
  have none : OnlyNamed i s s := .refl i s
  cases i with
  | nop | stop => exact none
  | li | lui | csrr => exact none.setX rfl _
  | csrw c rs =>
    simp only [commandWork]
    split
    · next t ht => exact .of_csrw ht
    · exact none
  | brInit ra rl => exact .of_reader (show SameButReader s _ from rfl) rfl
  | brPeek rd n => exact (OnlyNamed.bind_setX (.of_reader (peek_same _ s) rfl) rfl).withCount
  | brGet rd n => exact (OnlyNamed.bind_setX (.of_reader (getBits_same _ s) rfl) rfl).withCount
  | brSkip n => exact (OnlyNamed.of_reader (consume_same _ s) rfl).withCount
  | bwInit ra rl => exact { writer := by simp [movesWriter] }
  | bwPut rs n => exact (OnlyNamed.of_encode (push_same _ _ s) rfl rfl).withCount
  | bwFin rd => exact OnlyNamed.bind_setX (by rwa [finish_final]) rfl
  | tcBuild =>
    simp only [commandWork]
    split
    · exact {}
    · exact none
  | tcDith rd rs =>
    exact .requireTable (.requireBelow
      (OnlyNamed.setX (t := { s with rng := lcg s.rng }) { rng := by simp [movesRng] } rfl _))
  | tcRlk rd rs | tcCtr rd rs | tcBd rd rs => exact .requireTable (.requireBelow (none.setX rfl _))
  | dcDph ra j => exact .requireTable (.of_decode (decodePhase_same _ _ s) rfl rfl rfl)
  | dcEph ra j => exact .requireTable (.of_encode (encodePhase_same _ _ s) rfl rfl)
  | dcDrow ra rb => exact .requireTable (.of_decode (drowWork_same ra rb s) rfl rfl rfl)
  | dcErow ra rb => exact .requireTable (.of_encode (erowWork_same ra rb s) rfl rfl)
  | dcDec ra rb => exact .requireTable (.of_decode (decWork_same ra rb s) rfl rfl rfl)
  | dcEnc ra rb => exact .requireTable (.of_encode (encWork_same ra rb s) rfl rfl)

theorem exec_onlyNamed {i : Instr} {s t : State} (h : exec i s = .next t) : OnlyNamed i s t := by
  rw [exec_sameButEnd h]
  exact (commandWork_onlyNamed i s).congr (fun _ _ => rfl) rfl ⟨rfl, rfl, rfl, rfl⟩ ⟨rfl, rfl, rfl, rfl⟩

/-- Settles O47: where a part differs the command is one of those that may write it, which are the commands named. -/
theorem onlyNamedCommandsChange : Obligations.OnlyNamedCommandsChange := by
  unfold Obligations.OnlyNamedCommandsChange
  intro i s t ht
  obtain ⟨hregs, hrng, hbr, hbw, hmem, hconst, hgeom⟩ := exec_onlyNamed ht
  have named {p : Bool} {a b : Prop} (hkeep : p = false → a) (hne : ¬a) (hp : p = true → b) : b :=
    hp (Bool.eq_true_of_not_eq_false (mt hkeep hne))
  have hend : t.ieDone = s.ieDone ∧ t.ieFault = s.ieFault ∧ t.cmdBase = s.cmdBase := by
    have hc := (commandWork_sequencer i s).control
    rw [exec_sameButEnd ht]
    exact ⟨hc.ieDone, hc.ieFault, hc.cmdBase⟩
  refine ⟨fun r hr => not_not.1 (mt (hregs r) hr), fun hne => named hrng hne ?_, fun hne => named hbr hne ?_,
    fun hne => named hbw hne ?_, fun hne => named hmem hne ?_, fun hne => ?_, fun hne => ?_, hend⟩
  · unfold movesRng; split <;> simp
  · unfold movesReader; split <;> simp
  · unfold movesWriter; split <;> simp
  · unfold storesBytes; split <;> simp
  · by_contra hno
    exact hne (hgeom fun c rs hi => Bool.eq_false_of_not_eq_true fun hg => hno ⟨c, rs, hi, hg⟩)
  · by_contra hno
    exact hne (hconst fun c rs hi => Bool.eq_false_of_not_eq_true fun hg => hno ⟨c, rs, hi, hg⟩)

end Sys2Proof.Machine
end

section
/-!
SUPPORT and the statements about what every step keeps: the control registers (StepKeepsControlInv), the table
(StepKeepsTableInv), memory (StepKeepsStoreInv), and the invariants at reset (InvariantsHoldAtReset).  Before them stand
the invariants under the ends of a command and under the host's writes.
-/

namespace Sys2Proof.Machine

/-! ### The control registers (10_state.md R25, R32; 60_exceptions.md R224, R226) -/

/-- The invariant speaks of these registers only. -/
theorem ControlInv.congr {s t : State} (h : ControlInv s)
    (he : (t.cp, t.cmdBase, t.busy, t.done, t.fault, t.faultCode, t.faultInfo, t.hung) =
      (s.cp, s.cmdBase, s.busy, s.done, s.fault, s.faultCode, s.faultInfo, s.hung)) : ControlInv t := by
  simp only [Prod.mk.injEq] at he
  obtain ⟨hcp, hbase, hbusy, hdone, hfault, hcode, hinfo, hhung⟩ := he
  obtain ⟨h1, h2, h3, h4, h5, h6, h7⟩ := h
  rw [← hcp] at h1
  rw [← hbase] at h2
  rw [← hbusy] at h3 h7
  rw [← hdone] at h3 h4
  rw [← hfault] at h3 h4 h6
  rw [← hcode] at h3 h5 h6
  rw [← hinfo] at h3
  rw [← hhung] at h7
  exact ⟨h1, h2, h3, h4, h5, h6, h7⟩

theorem ControlInv.of_sequencer {s t : State} (h : ControlInv s) (hs : SameSequencer s t) : ControlInv t :=
  h.congr (by rw [hs])

theorem add_four_aligned {a : Word} (h : a.toNat % 4 = 0) : (a + 4).toNat % 4 = 0 := by
  rw [BitVec.toNat_add, show (4 : Word).toNat = 4 from rfl]
  omega

theorem ControlInv.retire {s : State} (h : ControlInv s) : ControlInv s.retire :=
  ⟨add_four_aligned h.cpAligned, h.baseAligned, h.busyClear, h.notBoth, h.codeKnown, h.faultCoded, h.hungBusy⟩

theorem ControlInv.stopRun {s : State} (h : ControlInv s) (hb : s.busy = true) (hh : s.hung = false) :
    ControlInv s.stopRun := by
  obtain ⟨_, hfault, _⟩ := h.busyClear hb
  exact ⟨h.cpAligned, h.baseAligned, nofun, by simp [hfault], h.codeKnown, h.faultCoded, by simp [hh]⟩

theorem ControlInv.enterFault {s : State} (h : ControlInv s) (hb : s.busy = true) (hh : s.hung = false)
    (c : FaultCode) (info : Word) : ControlInv (s.enterFault c info) := by
  obtain ⟨hdone, _⟩ := h.busyClear hb
  obtain ⟨hlow, hhigh⟩ := faultNum_bounds c
  refine ⟨h.cpAligned, h.baseAligned, nofun, by simp [hdone], hhigh, fun _ hzero => ?_, by simp [hh]⟩
  rw [State.enterFault_faultCode] at hzero
  rw [hzero] at hlow
  exact absurd hlow (by decide)

theorem ControlInv.hang {s : State} (h : ControlInv s) (hb : s.busy = true) : ControlInv s.hang :=
  ⟨h.cpAligned, h.baseAligned, h.busyClear, h.notBoth, h.codeKnown, h.faultCoded, fun _ => hb⟩

theorem ControlInv.go {s : State} (h : ControlInv s) : ControlInv s.go :=
  ⟨h.baseAligned, h.baseAligned, fun _ => ⟨rfl, rfl, rfl, rfl⟩, by simp, by simp, by simp, fun _ => rfl⟩

/-- A write of 1 to DONE or FAULT only clears them. -/
theorem ControlInv.writeStatus {s : State} (h : ControlInv s) (v : Word) : ControlInv (s.writeStatus v) := by
  refine ⟨h.cpAligned, h.baseAligned, fun hb => ?_, fun hboth => ?_, h.codeKnown, fun hf => ?_, h.hungBusy⟩
  · obtain ⟨hdone, hfault, hcode, hinfo⟩ := h.busyClear hb
    exact ⟨by simp [hdone], by simp [hfault], hcode, hinfo⟩
  · simp only [State.writeStatus_done, State.writeStatus_fault, Bool.and_eq_true] at hboth
    obtain ⟨⟨hdone, _⟩, hfault, _⟩ := hboth
    exact h.notBoth ⟨hdone, hfault⟩
  · simp only [State.writeStatus_fault, Bool.and_eq_true] at hf
    exact h.faultCoded hf.1

/-- The mask of CMD_BASE drops bits 1:0 (10_state.md R32). -/
theorem and_alignMask_toNat (v : Word) : (v &&& 0xFFFFFFFC#32).toNat = 4 * (v.toNat / 4) := by
  have hmask : ∀ i < 32, (0xFFFFFFFC#32).getLsbD i = decide (2 ≤ i) := by decide
  have hbits : v &&& 0xFFFFFFFC#32 = (v >>> 2) <<< 2 := by
    refine BitVec.eq_of_getLsbD_eq fun i hi => ?_
    rw [BitVec.getLsbD_and, hmask i hi, BitVec.getLsbD_shiftLeft, BitVec.getLsbD_ushiftRight]
    by_cases h2 : 2 ≤ i
    · simp [h2, hi, Nat.not_lt.2 h2]
    · simp [h2, Nat.not_le.1 h2]
  rw [hbits, BitVec.toNat_shiftLeft, BitVec.toNat_ushiftRight, Nat.shiftRight_eq_div_pow, Nat.shiftLeft_eq]
  have := v.isLt
  omega

theorem hostWriteCsr_controlInv {s : State} (h : ControlInv s) (c : Csr) (v : Word) :
    ControlInv (s.hostWriteCsr c v) := by
  cases c with
  | ctrl =>
    have henables : ControlInv (s.writeEnables v) := h.congr rfl
    simp only [State.hostWriteCsr]
    split
    · exact henables.go
    · exact henables
  | status => exact h.writeStatus v
  | cmdBase =>
    refine ⟨h.cpAligned, ?_, h.busyClear, h.notBoth, h.codeKnown, h.faultCoded, h.hungBusy⟩
    exact (congrArg (· % 4) (and_alignMask_toNat v)).trans (Nat.mul_mod_right 4 _)
  | _ => exact h.congr rfl

theorem hostWrite_controlInv {s : State} (h : ControlInv s) (off : Nat) (v : Word) :
    ControlInv (s.hostWrite off v) := by
  unfold State.hostWrite
  split
  · next c _ =>
    split
    · cases c with
      | ctrl => exact h.congr rfl
      | status => exact h.writeStatus v
      | _ => exact h
    · exact hostWriteCsr_controlInv h c v
  · split
    · exact h
    · exact h.congr rfl
  · exact h

/-- No access of the host but a write to a register of the window reaches the control registers. -/
theorem hostStep_controlInv {e : HostEvent} {s t : State} (hq : e ≠ .seq) (hr : ∀ kept, e ≠ .reset kept)
    (h : ControlInv s) (he : hostStep e s = .next t) : ControlInv t := by
  cases e with
  | seq => exact absurd rfl hq
  | regWrite addr size v =>
    rcases windowAccess_cases he with ⟨off, _, _, _, _, rfl⟩ | rfl
    · exact hostWrite_controlInv h off v
    · exact h
  | regRead addr size =>
    rcases windowAccess_cases he with ⟨off, _, _, _, _, rfl⟩ | rfl
    · rcases hostRead_cases s off with hg | ⟨v, hg⟩ <;> rw [hg] <;> exact h.congr rfl
    · exact h
  | memWrite a b =>
    obtain ⟨_, rfl⟩ := memoryAccess_cases he
    rcases hostStore_cases s a b with hg | hg <;> rw [hg] <;> exact h.congr rfl
  | memRead a =>
    obtain ⟨_, rfl⟩ := memoryAccess_cases he
    rcases hostLoad_cases s a with ⟨v, hg⟩ | ⟨v, hg⟩ <;> rw [hg] <;> exact h.congr rfl
  | reset kept => exact absurd rfl (hr kept)

theorem exec_controlInv {i : Instr} {s t : State} (hb : s.busy = true) (hh : s.hung = false) (h : ControlInv s)
    (he : exec i s = .next t) : ControlInv t := by
  rcases exec_cases he with ⟨_, rfl⟩ | ⟨_, ⟨u, hu, rfl⟩ | ⟨c, info, u, hu, rfl⟩ | ⟨u, hu, rfl⟩⟩
  · exact h.stopRun hb hh
  all_goals
    have hseq := commandWork_sequencer i s
    rw [hu] at hseq
    have hinv := h.of_sequencer hseq
    have hbusy := hseq.control.busy.trans hb
    have hhung := hseq.control.hung.trans hh
  · exact hinv.retire
  · exact hinv.enterFault hbusy hhung c info
  · exact hinv.hang hbusy

theorem controlInv_reset (s cut : State) : ControlInv (s.resetWith cut) :=
  ⟨rfl, rfl, nofun, nofun, Nat.zero_le 11, nofun, nofun⟩

/-! ### The table (10_state.md R31, R41, R42) -/

theorem TableInv.congr {s t : State} (h : TableInv s) (hs : SameCurve s t) : TableInv t where
  size := by rw [hs.table]; exact h.size
  current hv := by
    have hb : t.breakpoints = s.breakpoints := by
      rw [State.breakpoints, State.breakpoints, hs.constants.bp0, hs.constants.bp1, hs.constants.bp2, hs.constants.bp3]
    rw [hb, hs.table]
    exact h.current (hs.valid ▸ hv)

/-- With TC_VALID clear only the size of the table counts. -/
theorem TableInv.of_invalid {s t : State} (h : TableInv s) (htc : t.tc = s.tc) (hv : t.tcValid = false) : TableInv t :=
  ⟨htc ▸ h.size, by simp [hv]⟩

theorem buildTable_length {s : State} {table : List TcEntry} (h : buildTable s.breakpoints = .ok table) :
    table.length = Config.tcSize := by
  obtain ⟨_, htable⟩ := buildTable_eq_ok (codeRange_curveOf s) (breakpoints_eq_curveOf s ▸ h)
  rw [htable, List.length_map, List.length_range, Config.tcSize]

theorem exec_tcBuild_tableInv {s t : State} (h : TableInv s) (he : exec .tcBuild s = .next t) : TableInv t := by
  have hend := (exec_sameButEnd he).curve
  simp only [commandWork] at hend
  split at hend
  · next table ht =>
    exact TableInv.congr (s := { s with tc := table, tcValid := true }) ⟨buildTable_length ht, fun _ => ht⟩ hend
  · exact h.congr hend

theorem exec_tableInv {i : Instr} {s t : State} (h : TableInv s) (he : exec i s = .next t) : TableInv t := by
  rcases exec_curve_cases he with hs | ⟨rfl, _⟩ | ⟨_, hv, htc⟩
  · exact h.congr hs
  · exact exec_tcBuild_tableInv h he
  · exact h.of_invalid htc hv

/-- A host write to a CSR clears TC_VALID or leaves the curve (10_state.md R39, R42). -/
theorem hostWrite_curve_cases (s : State) (off : Nat) (v : Word) :
    SameCurve s (s.hostWrite off v) ∨ (s.hostWrite off v).tcValid = false := by
  unfold State.hostWrite
  split
  · next c _ =>
    split
    · cases c <;> exact .inl (.of_eq rfl)
    · cases c with
      | tcBp0 | tcBp1 | tcBp2 | tcBp3 => exact .inr rfl
      | ctrl =>
        simp only [State.hostWriteCsr]
        split <;> exact .inl (.of_eq rfl)
      | _ => exact .inl (.of_eq rfl)
  · split <;> exact .inl (.of_eq rfl)
  · exact .inl (.of_eq rfl)

theorem hostStep_tableInv {e : HostEvent} {s t : State} (hq : e ≠ .seq) (hr : ∀ kept, e ≠ .reset kept)
    (h : TableInv s) (he : hostStep e s = .next t) : TableInv t := by
  cases e with
  | seq => exact absurd rfl hq
  | regWrite addr size v =>
    rcases windowAccess_cases he with ⟨off, _, _, _, _, rfl⟩ | rfl
    · rcases hostWrite_curve_cases s off v with hs | hv
      · exact h.congr hs
      · exact h.of_invalid (hostWrite_sameUnits s off v).tc hv
    · exact h
  | regRead addr size =>
    rcases windowAccess_cases he with ⟨off, _, _, _, _, rfl⟩ | rfl
    · rcases hostRead_cases s off with hg | ⟨v, hg⟩ <;> rw [hg] <;> exact h.congr (.of_eq rfl)
    · exact h
  | memWrite a b =>
    obtain ⟨_, rfl⟩ := memoryAccess_cases he
    rcases hostStore_cases s a b with hg | hg <;> rw [hg] <;> exact h.congr (.of_eq rfl)
  | memRead a =>
    obtain ⟨_, rfl⟩ := memoryAccess_cases he
    rcases hostLoad_cases s a with ⟨v, hg⟩ | ⟨v, hg⟩ <;> rw [hg] <;> exact h.congr (.of_eq rfl)
  | reset kept => exact absurd rfl (hr kept)

theorem tableInv_reset (s cut : State) : TableInv (s.resetWith cut) :=
  ⟨List.length_replicate, nofun⟩

/-! ### Memory (20_memory.md R60) -/

theorem exec_canonical {i : Instr} {s t : State} (h : s.mem.wf = true) (he : exec i s = .next t) :
    t.mem.wf = true := by
  rw [exec_sameButEnd he]
  exact commandWork_canonical i h

theorem exec_settled {i : Instr} {s t : State} (h : s.writesLeft = none) (he : exec i s = .next t) :
    t.writesLeft = none := by
  rw [exec_sameButEnd he]
  exact commandWork_settled i h

theorem seqStep_canonical {s t : State} (h : s.mem.wf = true) (he : seqStep s = .next t) : t.mem.wf = true :=
  seqStep_keeps (P := fun u => u.mem.wf = true) h he (draws := fun _ hd => by rwa [hd]) (hang := fun _ _ hu => hu)
    (illegal := fun _ _ _ hu => hu) (command := fun _ _ _ _ hu hx => exec_canonical hu hx)

theorem seqStep_storeInv {s t : State} (h : StoreInv s) (he : seqStep s = .next t) : StoreInv t :=
  seqStep_keeps h he (draws := fun _ hd => by rw [hd]; exact ⟨h.canonical, h.settled⟩)
    (hang := fun _ _ hu => ⟨hu.canonical, hu.settled⟩) (illegal := fun _ _ _ hu => ⟨hu.canonical, hu.settled⟩)
    (command := fun _ _ _ _ hu hx => ⟨exec_canonical hu.canonical hx, exec_settled hu.settled hx⟩)

/-- The command a reset cuts short leaves memory canonical too. -/
theorem cutShort_canonical {s : State} (h : s.mem.wf = true) (kept : Nat) : (s.cutShort kept).mem.wf = true := by
  unfold State.cutShort
  split
  · next t ht => exact seqStep_canonical (s := { s with writesLeft := some kept }) h ht
  · exact h
  · exact h

/-- A host write to the window leaves memory as it is. -/
theorem hostWrite_mem (s : State) (off : Nat) (v : Word) : (s.hostWrite off v).mem = s.mem := by
  unfold State.hostWrite
  split
  · next c _ =>
    split
    · cases c <;> rfl
    · cases c with
      | ctrl =>
        simp only [State.hostWriteCsr]
        split <;> rfl
      | _ => rfl
  · split <;> rfl
  · rfl

theorem hostStep_storeInv {e : HostEvent} {s t : State} (hq : e ≠ .seq) (h : StoreInv s)
    (he : hostStep e s = .next t) : StoreInv t := by
  cases e with
  | seq => exact absurd rfl hq
  | regWrite addr size v =>
    rcases windowAccess_cases he with ⟨off, _, _, _, _, rfl⟩ | rfl
    · exact ⟨by rw [hostWrite_mem]; exact h.canonical, by rw [hostWrite_sameUnits s off v]; exact h.settled⟩
    · exact h
  | regRead addr size =>
    rcases windowAccess_cases he with ⟨off, _, _, _, _, rfl⟩ | rfl
    · rcases hostRead_cases s off with hg | ⟨v, hg⟩ <;> rw [hg] <;> exact ⟨h.canonical, h.settled⟩
    · exact h
  | memWrite a b =>
    obtain ⟨_, rfl⟩ := memoryAccess_cases he
    have hwf := Memory.write_wf (b := b) h.canonical a.isLt
    rcases hostStore_cases s a b with hg | hg <;> rw [hg] <;> exact ⟨hwf, h.settled⟩
  | memRead a =>
    obtain ⟨_, rfl⟩ := memoryAccess_cases he
    rcases hostLoad_cases s a with ⟨v, hg⟩ | ⟨v, hg⟩ <;> rw [hg] <;> exact ⟨h.canonical, h.settled⟩
  | reset kept =>
    cases he
    exact ⟨cutShort_canonical h.canonical kept, rfl⟩

/-- A step is a move of the sequencer or takes an event off the schedule. -/
theorem step_cases {s t : State} (h : step s = .next t) :
    seqStep s = .next t ∨ ∃ e rest, s.inputs = e :: rest ∧ hostStep e { s with inputs := rest } = .next t := by
  cases hin : s.inputs with
  | nil => exact .inl (step_of_no_inputs hin ▸ h)
  | cons e rest => exact .inr ⟨e, rest, rfl, step_of_inputs hin ▸ h⟩

/-! ### The obligations -/

/-- Settles O49: a command's work leaves the control registers and its end keeps them legal; so do the host's writes,
and reset puts them at zero. -/
theorem stepKeepsControlInv : Obligations.StepKeepsControlInv := by
  unfold Obligations.StepKeepsControlInv
  intro s t h hs
  have seq (u : State) (hu : ControlInv u) (hq : seqStep u = .next t) : ControlInv t := by
    rcases seqStep_cases hq with ⟨_, rfl⟩ | ⟨hb, hh, hrun⟩
    · exact hu
    · have hd := fetch_same u
      rcases hrun with ⟨v, hf, rfl⟩ | ⟨w, v, hf, hword⟩
      · rw [hf, Res.final_stuck] at hd
        exact (hu.of_sequencer hd.encode.sequencer).hang (hd.busy.trans hb)
      · rw [hf, Res.final_ok] at hd
        have hv := hu.of_sequencer hd.encode.sequencer
        rcases hword with ⟨e, _, rfl⟩ | ⟨i, _, he⟩
        · exact hv.enterFault (hd.busy.trans hb) (hd.hung.trans hh) _ w
        · exact exec_controlInv (hd.busy.trans hb) (hd.hung.trans hh) hv he
  exact step_keeps h hs (inputs := fun _ => h.congr rfl) (seq := seq)
    (host := fun _ _ hq hr hu he => hostStep_controlInv hq hr hu he) (reset := controlInv_reset)

/-- Settles O51: TC.BUILD stores the table of the constants it finds, and whatever writes a constant clears
TC_VALID. -/
theorem stepKeepsTableInv : Obligations.StepKeepsTableInv := by
  unfold Obligations.StepKeepsTableInv
  intro s t h hs
  have seq (u : State) (hu : TableInv u) (hq : seqStep u = .next t) : TableInv t :=
    seqStep_keeps hu hq (draws := fun _ hd => hu.congr hd.encode.curve) (hang := fun _ _ hv => hv.congr (.of_eq rfl))
      (illegal := fun _ _ _ hv => hv.congr (.of_eq rfl)) (command := fun _ _ _ _ hv he => exec_tableInv hv he)
  exact step_keeps h hs (inputs := fun _ => h.congr (.of_eq rfl)) (seq := seq)
    (host := fun _ _ hq hr hu he => hostStep_tableInv hq hr hu he) (reset := tableInv_reset)

/-- Settles O52: every store keeps memory canonical, that of a command cut short among them, and no step leaves a count
of writes behind. -/
theorem stepKeepsStoreInv : Obligations.StepKeepsStoreInv := by
  unfold Obligations.StepKeepsStoreInv
  intro s t h hs
  rcases step_cases hs with hq | ⟨e, rest, _, he⟩
  · exact seqStep_storeInv h hq
  · have hrest : StoreInv { s with inputs := rest } := ⟨h.canonical, h.settled⟩
    by_cases hq : e = .seq
    · subst hq
      exact seqStep_storeInv hrest he
    · exact hostStep_storeInv hq hrest he

/-- Settles O54: each invariant at the reset values. -/
theorem invariantsHoldAtReset : Obligations.InvariantsHoldAtReset :=
  ⟨controlInv_reset .reset .reset, ⟨Nat.one_pos, Nat.one_pos⟩, tableInv_reset .reset .reset, ⟨rfl, rfl⟩⟩

end Sys2Proof.Machine
end

section
/-!
SUPPORT and the statements about the host's side (10_state.md R46 to R48, 20_memory.md R73, R75) and about TC.BUILD on a
legal set (BuildCompletes): register reads and writes while idle (IdleHostReads, IdleHostWrites) and while busy
(BusyHostAccesses), and accesses to memory (HostMemoryAccesses).  Before them stand what a window offset names, the
effect of an access at each kind of offset, the values of a race, and the accesses the model refuses.
-/

namespace Sys2Proof.Machine

/-! ### TC.BUILD on a legal set (41_tone_curve.md R130) -/

theorem buildTable_of_legal {b : Breakpoints} (hr : CodeRange b) (h : CurveLegal b) :
    buildTable b = .ok ((triples (curve b)).map entryOf) :=
  buildTable_ok (firstDescent_eq_none.2 h.ascending) ((firstNegative_eq_none hr h.ascending).2 h.nonnegative)
    ((firstDrop_eq_none hr h.ascending).2 h.nondecreasing)

/-- Settles O23: the three checks pass, so the table is stored, and its columns are those of a built table. -/
theorem buildCompletes : Obligations.BuildCompletes := by
  unfold Obligations.BuildCompletes
  intro s hlegal
  have hbuild : buildTable s.breakpoints = .ok ((triples (curve s.breakpoints)).map entryOf) :=
    buildTable_of_legal (breakpoints_eq_curveOf s ▸ codeRange_curveOf s) (breakpoints_eq_curveOf s ▸ hlegal)
  have hlen := buildTable_length hbuild
  generalize (triples (curve s.breakpoints)).map entryOf = table at hbuild hlen
  have hwork : commandWork .tcBuild s = .ok () { s with tc := table, tcValid := true } := by
    simp only [commandWork, hbuild]
  have hinv : TableInv ({ s with tc := table, tcValid := true } : State).retire := ⟨hlen, fun _ => hbuild⟩
  refine ⟨_, exec_of_work_ok (by simp) hwork, completed_curve s .., ⟨rfl, rfl, rfl, rfl⟩, rfl, hlen, fun i hi => ?_⟩
  exact ⟨center_built hinv rfl hi, base_built hinv rfl hi, delta_built hinv rfl hi⟩

/-! ### Window offsets (10_state.md R46) -/

/-- The aligned offset of a general register is 0x100 and four times its number. -/
theorem windowReg_eq_gpr {off : Nat} {r : Reg} (hal : off % 4 = 0) :
    windowReg off = .gpr r ↔ off = 0x100 + 4 * r.val := by
  have hlt := r.isLt
  unfold windowReg
  constructor
  · intro h
    split at h
    · split at h <;> cases h
    · split at h
      · cases h
        simp only
        omega
      · cases h
  · rintro rfl
    rw [if_neg (by omega), dif_pos (by omega)]
    congr 1
    exact Fin.ext (by simp)

/-- Every other aligned offset is reserved. -/
theorem windowReg_eq_reserved {off : Nat} (hal : off % 4 = 0) (hcsr : ∀ c : Csr, off ≠ 4 * (csrNum c).toNat)
    (hgpr : ∀ r : Reg, off ≠ 0x100 + 4 * r.val) : windowReg off = .reserved := by
  cases hw : windowReg off with
  | csr c => exact absurd ((windowReg_eq_csr hal).1 hw) (hcsr c)
  | gpr r => exact absurd ((windowReg_eq_gpr hal).1 hw) (hgpr r)
  | reserved => rfl

theorem windowReg_csr (c : Csr) : windowReg (4 * (csrNum c).toNat) = .csr c :=
  (windowReg_eq_csr (Nat.mul_mod_right 4 _)).2 rfl

theorem windowReg_gpr (r : Reg) : windowReg (0x100 + 4 * r.val) = .gpr r :=
  (windowReg_eq_gpr (by omega)).2 rfl

/-! ### Register reads (10_state.md R47, R48) -/

/-- A step that takes an aligned host read of the window off the schedule. -/
theorem step_regRead {s : State} {off : Nat} {rest : List HostEvent}
    (hin : s.inputs = .regRead (s.mmioBase + off) 4 :: rest) (hlt : off < 512) (hal : off % 4 = 0) :
    step s = .next ({ s with inputs := rest }.hostRead off) := by
  rw [step_of_inputs hin]
  exact windowAccess_aligned { s with inputs := rest } _ hlt hal

theorem hostRead_csr (s : State) (c : Csr) :
    s.hostRead (4 * (csrNum c).toNat) =
      if s.busy && !(c == .status || c == .cp || c == .cmdCount) then s.hostGetsAny else s.hostGets (s.readCsr c) := by
  simp only [State.hostRead, windowReg_csr]

theorem hostRead_csr_of_idle {s : State} (h : s.busy = false) (c : Csr) :
    s.hostRead (4 * (csrNum c).toNat) = s.hostGets (s.readCsr c) := by
  rw [hostRead_csr, h, Bool.false_and, if_neg Bool.false_ne_true]

theorem hostRead_gpr (s : State) (r : Reg) :
    s.hostRead (0x100 + 4 * r.val) = if s.busy then s.hostGetsAny else s.hostGets (s.getX r) := by
  simp only [State.hostRead, windowReg_gpr]

theorem hostRead_csr_of_busy {s : State} (h : s.busy = true) {c : Csr}
    (hc : c ∉ [Csr.status, .cp, .cmdCount]) : s.hostRead (4 * (csrNum c).toNat) = s.hostGetsAny := by
  have hother : (c == .status || c == .cp || c == .cmdCount) = false := by simpa [and_assoc] using hc
  rw [hostRead_csr, h, hother]
  rfl

/-- STATUS, CP and CMD_COUNT read their value while busy too (10_state.md R48). -/
theorem hostRead_csr_of_live (s : State) {c : Csr} (hc : c ∈ [Csr.status, .cp, .cmdCount]) :
    s.hostRead (4 * (csrNum c).toNat) = s.hostGets (s.readCsr c) := by
  have hthree : (c == .status || c == .cp || c == .cmdCount) = true := by simpa [or_assoc] using hc
  rw [hostRead_csr, hthree, Bool.not_true, Bool.and_false, if_neg Bool.false_ne_true]

theorem hostRead_reserved {s : State} {off : Nat} (hal : off % 4 = 0) (hcsr : ∀ c : Csr, off ≠ 4 * (csrNum c).toNat)
    (hgpr : ∀ r : Reg, off ≠ 0x100 + 4 * r.val) : s.hostRead off = s.hostGets 0 := by
  simp only [State.hostRead, windowReg_eq_reserved hal hcsr hgpr]
  rfl

/-- While idle a host read changes what the host got only. -/
theorem hostRead_of_idle {s : State} (h : s.busy = false) (off : Nat) : ∃ v, s.hostRead off = s.hostGets v := by
  unfold State.hostRead
  split
  · rw [h, Bool.false_and, if_neg Bool.false_ne_true]
    exact ⟨_, rfl⟩
  · rw [h, if_neg Bool.false_ne_true]
    exact ⟨_, rfl⟩
  · exact ⟨_, rfl⟩

/-- Settles O56: an idle read gets the value of the register the offset names. -/
theorem idleHostReads : Obligations.IdleHostReads := by
  unfold Obligations.IdleHostReads
  intro s off rest hin hidle hlt hal
  have hidle' : State.busy { s with inputs := rest } = false := hidle
  refine ⟨_, step_regRead hin hlt hal, ?_, fun c hc => ?_, fun r hr => ?_, fun hcsr hgpr => ?_⟩
  · obtain ⟨v, hv⟩ := hostRead_of_idle hidle' off
    rw [hv]
    rfl
  · rw [hc, hostRead_csr_of_idle hidle']
    exact readCsr_toNat { s with inputs := rest } c
  · rw [hr, hostRead_gpr, if_neg (ne_true_of_eq_false hidle)]
    rfl
  · rw [hostRead_reserved hal hcsr hgpr]
    rfl

/-! ### Register writes (10_state.md R47, R48) -/

theorem hostWrite_gpr (s : State) (r : Reg) (v : Word) :
    s.hostWrite (0x100 + 4 * r.val) v = if s.busy then s else s.setX r v := by
  simp only [State.hostWrite, windowReg_gpr]

theorem hostWrite_csr_of_idle {s : State} (h : s.busy = false) (c : Csr) (v : Word) :
    s.hostWrite (4 * (csrNum c).toNat) v = s.hostWriteCsr c v := by
  rw [hostWrite_csr, h, if_neg Bool.false_ne_true]

theorem hostWrite_csr_of_busy {s : State} (h : s.busy = true) (c : Csr) (v : Word) :
    s.hostWrite (4 * (csrNum c).toNat) v = s.busyWriteCsr c v := by
  rw [hostWrite_csr, h, if_pos rfl]

theorem hostWrite_gpr_of_idle {s : State} (h : s.busy = false) (r : Reg) (v : Word) :
    s.hostWrite (0x100 + 4 * r.val) v = s.setX r v := by
  rw [hostWrite_gpr, h, if_neg Bool.false_ne_true]

/-- The CSRs whose idle host write has an effect (10_state.md R47). -/
def hostWritable : Csr → Bool
  | .ctrl | .status | .cmdBase | .rng | .tcBp0 | .tcBp1 | .tcBp2 | .tcBp3 | .gWidth | .gHeight | .gStride
  | .gSrclen => true
  | _ => false

theorem hostWriteCsr_of_readOnly {c : Csr} (h : hostWritable c = false) (s : State) (v : Word) :
    s.hostWriteCsr c v = s := by
  cases c with
  | ctrl | status | cmdBase | rng | tcBp0 | tcBp1 | tcBp2 | tcBp3 | gWidth | gHeight | gStride | gSrclen => cases h
  | _ => rfl

/-- An idle write to a read-only CSR or a reserved offset has no effect. -/
theorem hostWrite_without_effect {s : State} {off : Nat} {v : Word} (hidle : s.busy = false) (hal : off % 4 = 0)
    (hgpr : ∀ r : Reg, off ≠ 0x100 + 4 * r.val)
    (hcsr : ∀ c : Csr, off = 4 * (csrNum c).toNat → hostWritable c = false) :
    s.hostWrite off v = s := by
  cases hw : windowReg off with
  | csr c =>
    have hoff := (windowReg_eq_csr hal).1 hw
    rw [hoff, hostWrite_csr_of_idle hidle, hostWriteCsr_of_readOnly (hcsr c hoff)]
  | gpr r => exact absurd ((windowReg_eq_gpr hal).1 hw) (hgpr r)
  | reserved => simp only [State.hostWrite, hw]

/-- Settles O57: the effect of the write at each CSR's offset, at a register's, and at every other. -/
theorem idleHostWrites : Obligations.IdleHostWrites := by
  unfold Obligations.IdleHostWrites
  intro s off v rest hin hidle hlt hal
  have hidle' : State.busy { s with inputs := rest } = false := hidle
  have hstep := step_regWrite hin hlt hal
  have hcsr (c : Csr) (hc : off = 4 * (csrNum c).toNat) :
      step s = .next ({ s with inputs := rest }.hostWriteCsr c v) := by
    rw [hstep, hc, hostWrite_csr_of_idle hidle']
  refine ⟨fun r hr => ?_, fun hc hgo => ?_, fun hc hgo => ?_, hcsr .status, fun hc => ?_, hcsr .rng, hcsr .tcBp0,
    hcsr .tcBp1, hcsr .tcBp2, hcsr .tcBp3, hcsr .gWidth, hcsr .gHeight, hcsr .gStride, hcsr .gSrclen,
    fun hgpr hnot => ?_⟩
  · rw [hr, hostWrite_gpr_of_idle hidle'] at hstep
    exact ⟨_, hstep, rfl, State.getX_setX_same _ r v, fun q hq => State.getX_setX_other _ v hq⟩
  · rw [hcsr .ctrl hc, State.hostWriteCsr, if_neg (ne_true_of_eq_false hgo)]
    rfl
  · rw [hcsr .ctrl hc, State.hostWriteCsr, if_pos hgo]
    rfl
  · exact ⟨_, hcsr .cmdBase hc, rfl, and_alignMask_toNat v⟩
  · rw [hstep, hostWrite_without_effect hidle' hal hgpr fun c hc => ?_]
    subst hc
    cases c with
    | ctrl | status | cmdBase | rng | tcBp0 | tcBp1 | tcBp2 | tcBp3 | gWidth | gHeight | gStride | gSrclen =>
      exact absurd (by decide) hnot
    | _ => rfl

theorem writeStatus_of_clear {s : State} (hdone : s.done = false) (hfault : s.fault = false) (v : Word) :
    s.writeStatus v = s := by
  have hd : (s.done && !v.getLsbD 1) = s.done := by rw [hdone, Bool.false_and]
  have hf : (s.fault && !v.getLsbD 2) = s.fault := by rw [hfault, Bool.false_and]
  rw [State.writeStatus, hd, hf]

/-- A busy write has an effect at CTRL only, DONE and FAULT being 0 (10_state.md R48). -/
theorem hostWrite_of_busy {s : State} (h : ControlInv s) (hb : s.busy = true) {off : Nat} (hal : off % 4 = 0)
    (hne : off ≠ 4 * (csrNum .ctrl).toNat) (v : Word) : s.hostWrite off v = s := by
  obtain ⟨hdone, hfault, _⟩ := h.busyClear hb
  cases hw : windowReg off with
  | csr c =>
    rw [(windowReg_eq_csr hal).1 hw, hostWrite_csr_of_busy hb]
    cases c with
    | ctrl => exact absurd ((windowReg_eq_csr hal).1 hw) hne
    | status => exact writeStatus_of_clear hdone hfault v
    | _ => rfl
  | gpr r => rw [(windowReg_eq_gpr hal).1 hw, hostWrite_gpr, hb, if_pos rfl]
  | reserved => simp only [State.hostWrite, hw]

/-- Settles O58: a busy write reaches the enables only; a busy read gets a draw, but for three CSRs and the reserved
offsets. -/
theorem busyHostAccesses : Obligations.BusyHostAccesses := by
  unfold Obligations.BusyHostAccesses
  intro s off rest hinv hb hlt hal
  have hb' : State.busy { s with inputs := rest } = true := hb
  have hinv' : ControlInv { s with inputs := rest } := hinv.congr rfl
  refine ⟨fun v hin => ⟨fun hc => ?_, fun hne => ?_⟩, fun hin => ?_⟩
  · rw [step_regWrite hin hlt hal, hc]
    exact congrArg _ (hostWrite_csr_of_busy hb' .ctrl v)
  · rw [step_regWrite hin hlt hal, hostWrite_of_busy hinv' hb' hal hne]
  · refine ⟨_, step_regRead hin hlt hal, ?_, fun c hc hoff => ?_, fun hany => ?_, fun hcsr hgpr => ?_⟩
    · rcases hostRead_cases { s with inputs := rest } off with hg | ⟨v, hg⟩ <;> rw [hg] <;> rfl
    · rw [hoff, hostRead_csr_of_live _ hc]
      exact readCsr_toNat { s with inputs := rest } c
    · rcases hany with ⟨r, rfl⟩ | ⟨c, hc, rfl⟩
      · rw [hostRead_gpr, if_pos hb]
        rfl
      · rw [hostRead_csr_of_busy hb' hc]
        rfl
    · rw [hostRead_reserved hal hcsr hgpr]
      rfl

/-! ### Races (20_memory.md R73, 93_implementation_defined.md I22) -/

/-- A draw gives one of the values it is made from. -/
theorem draw_mem (s : State) (v : Byte) (vs : List Byte) : s.draw v vs ∈ v :: vs := by
  have hlt : Config.raceChoice s.draws % (vs.length + 1) < (v :: vs).length := Nat.mod_lt _ (Nat.succ_pos _)
  rw [State.draw, List.getD_eq_getElem _ _ hlt]
  exact List.getElem_mem hlt

/-- A little-endian number is one of its bytes. -/
theorem State.leValue_eq_of_bytes {s t : State} {n : Nat} {a : Word}
    (h : ∀ c, InRange a n c → t.byteAt c = s.byteAt c) : t.leValue n a = s.leValue n a := by
  induction n generalizing a with
  | zero => rfl
  | succ n ih =>
    rw [State.leValue, State.leValue, h a (inRange_succ.2 (.inl rfl)), ih fun c hc => h c (inRange_succ.2 (.inr hc))]

/-- A byte the host wrote once in the run is, read by the block, the old or the new value. -/
theorem loadByte_of_one_hostWrite {s : State} {a : Word} {old : Byte} {ws : List PastWrite}
    (hp : s.past = ⟨a, old, true⟩ :: ws) (hws : ∀ w ∈ ws, w.addr ≠ a) :
    (s.loadByte a).1 = old ∨ (s.loadByte a).1 = s.byteAt a := by
  have hnone : hostValues a old ws = [] := hostValues_eq_nil fun w hw _ => hws w hw
  have hown : ownValue a old ws = old := by
    clear hp hnone
    induction ws with
    | nil => rfl
    | cons w ws ih =>
      rw [ownValue, if_neg (hws w List.mem_cons_self)]
      exact ih fun v hv => hws v (List.mem_cons_of_mem _ hv)
  have hload : (s.loadByte a).1 = s.draw old [s.byteAt a] := by
    simp only [State.loadByte, hp, hostValues, ownValue, if_true, hnone, hown, State.byteAt]
  rw [hload]
  simpa using draw_mem s old [s.byteAt a]

theorem memRead_one {a : Word} {v : Nat} {s t : State} (h : memRead a 1 s = .ok v t) : v = (s.loadByte a).1.toNat := by
  unfold memRead at h
  split at h
  · cases h
    simp
  · cases h

/-- A byte the block has not written in the run reads as it is, without a draw. -/
theorem hostLoad_of_not_written {s : State} {a : Word}
    (h : s.busy = false ∨ ∀ w ∈ s.past, w.addr = a → w.byHost = true) :
    s.hostLoad a = s.hostGets ((s.byteAt a).setWidth 32) := by
  have hnot : (s.busy && s.blockWrote a) = false := by
    rcases h with hidle | hown
    · rw [hidle, Bool.false_and]
    · have hno : s.blockWrote a = false := by
        simp only [State.blockWrote, List.any_eq_false, Bool.and_eq_true, decide_eq_true_eq, Bool.not_eq_true', not_and,
          Bool.not_eq_false]
        exact hown
      rw [hno, Bool.and_false]
  rw [State.hostLoad, if_neg (ne_true_of_eq_false hnot)]
  rfl

/-- What the host reads of a byte is its value or one it has held in the run. -/
theorem hostLoad_value (s : State) (a : Word) :
    (s.hostLoad a).hostData.toNat = (s.byteAt a).toNat ∨
      ∃ w ∈ s.past, w.addr = a ∧ (s.hostLoad a).hostData.toNat = w.old.toNat := by
  have hwide (b : Byte) : (b.setWidth 32).toNat = b.toNat := BitVec.toNat_setWidth_of_le (by decide)
  unfold State.hostLoad
  split
  · simp only [State.hostGets_hostData, hwide]
    rcases List.mem_cons.1 (draw_mem s (s.mem.read a.toNat) (s.heldBefore a)) with hnow | hheld
    · exact .inl (congrArg BitVec.toNat hnow)
    · obtain ⟨w, hw, hold⟩ := List.mem_map.1 hheld
      obtain ⟨hmem, haddr⟩ := List.mem_filter.1 hw
      exact .inr ⟨w, hmem, of_decide_eq_true haddr, congrArg BitVec.toNat hold.symm⟩
  · exact .inl (hwide _)

/-! ### Accesses to memory (20_memory.md R73, R75) -/

theorem memoryAccess_of_admitted {s : State} {a : Word} (h : s.admits a = true) (t : State) :
    s.memoryAccess a t = .next t := if_pos h

theorem memoryAccess_of_not_admitted {s : State} {a : Word} (h : s.admits a = false) (t : State) :
    s.memoryAccess a t = .refused .hostOutsideMemory := if_neg (ne_true_of_eq_false h)

theorem hostStore_mem (s : State) (a : Word) (b : Byte) : (s.hostStore a b).mem = s.mem.write a.toNat b := by
  rcases hostStore_cases s a b with hg | hg
  · rw [hg]; rfl
  · rw [hg]

theorem hostStore_frame (s : State) (a : Word) (b : Byte) :
    s.hostStore a b = { s with mem := (s.hostStore a b).mem, past := (s.hostStore a b).past } := by
  rcases hostStore_cases s a b with hg | hg
  · rw [hg]; rfl
  · rw [hg]

theorem hostStore_past (s : State) (a : Word) (b : Byte) :
    (s.hostStore a b).past = if s.busy then ⟨a, s.byteAt a, true⟩ :: s.past else s.past := by
  unfold State.hostStore
  split <;> rfl

theorem hostStore_byteAt {s : State} (h : s.mem.wf = true) (a c : Word) (b : Byte) :
    (s.hostStore a b).byteAt c = if a = c then b else s.byteAt c := by
  rw [State.byteAt, hostStore_mem, Memory.read_write h]
  simp only [BitVec.toNat_inj, State.byteAt]

/-- A range the host did not write to stays settled and reads as before. -/
theorem hostStore_settled {s : State} (h : s.mem.wf = true) {a c : Word} {b : Byte} {n : Nat} (hs : Settled s c n)
    (hout : ¬InRange c n a) : memRead c n (s.hostStore a b) = .ok (s.leValue n c) (s.hostStore a b) := by
  have hne {d : Word} (hd : InRange c n d) : a ≠ d := fun he => hout (he ▸ hd)
  have hset : Settled (s.hostStore a b) c n := by
    intro d hd
    obtain ⟨hadm, hraced⟩ := hs d hd
    refine ⟨by rw [hostStore_frame]; exact hadm, fun w hw => ?_⟩
    rw [hostStore_past] at hw
    split at hw
    · rcases List.mem_cons.1 hw with rfl | hw
      · exact fun _ => hne hd
      · exact hraced w hw
    · exact hraced w hw
  have hval : (s.hostStore a b).leValue n c = s.leValue n c :=
    State.leValue_eq_of_bytes fun d hd => by rw [hostStore_byteAt h, if_neg (hne hd)]
  rw [memRead_of_settled n c hset, hval]

/-- An access that reaches the window and is not an aligned one of 4 bytes in it is refused (10_state.md R46). -/
theorem windowAccess_refused {s : State} {addr size : Nat} (act : Nat → State) (hlow : addr < s.mmioBase + 512)
    (hhigh : s.mmioBase < addr + size) (hnot : ¬(s.mmioBase ≤ addr ∧ size = 4 ∧ (addr - s.mmioBase) % 4 = 0)) :
    s.windowAccess addr size act = .refused .hostAccess := by
  unfold State.windowAccess State.windowOffset
  by_cases hin : s.mmioBase ≤ addr
  · simp only [hin, hlow, and_self, if_true]
    exact if_neg fun hok => hnot ⟨hin, hok⟩
  · simp only [hin, false_and, if_false]
    exact if_pos ⟨by omega, hhigh⟩

/-- An access that does not reach the window has no effect. -/
theorem windowAccess_outside {s : State} {addr size : Nat} (act : Nat → State) (hsize : 0 < size)
    (hout : s.mmioBase + 512 ≤ addr ∨ addr + size ≤ s.mmioBase) : s.windowAccess addr size act = .next s := by
  unfold State.windowAccess State.windowOffset
  rw [if_neg (by omega)]
  exact if_neg (by omega)

/-- Settles O59: a write is kept in the record of the run while busy, so a later read by the block is a race of the two
values; a read is a race only of bytes the block has written; the rest is refused. -/
theorem hostMemoryAccesses : Obligations.HostMemoryAccesses := by
  unfold Obligations.HostMemoryAccesses
  intro s
  refine ⟨fun a b rest hin hstore hadm => ?write, fun a rest hin hadm => ?read, fun a b rest hin hadm => ?outside,
    fun addr size v rest hin hsize => ?window⟩
  case write =>
    have hwf : (State.mem { s with inputs := rest }).wf = true := hstore.canonical
    have hbyte := hostStore_byteAt (s := { s with inputs := rest }) hwf a
    refine ⟨_, (step_of_inputs hin).trans (memoryAccess_of_admitted (s := { s with inputs := rest }) hadm _),
      hostStore_frame { s with inputs := rest } a b, (hbyte a b).trans (if_pos rfl),
      fun c hc => (hbyte c b).trans (if_neg (Ne.symm hc)), fun hidle => ?_, fun hb hfree v u hv => ?_,
      fun c n hset hout => (hostStore_settled (s := { s with inputs := rest }) hwf hset hout).trans
        (by rw [State.leValue_congr (s := s) (t := { s with inputs := rest }) rfl])⟩
    · rw [hostStore_past]
      exact if_neg (ne_true_of_eq_false hidle)
    · have hp := (hostStore_past { s with inputs := rest } a b).trans (if_pos hb)
      rw [memRead_one hv]
      rcases loadByte_of_one_hostWrite hp hfree with hold | hnew
      · exact .inl (congrArg BitVec.toNat hold)
      · exact .inr (congrArg BitVec.toNat (hnew.trans ((hbyte a b).trans (if_pos rfl))))
  case read =>
    refine ⟨_, (step_of_inputs hin).trans (memoryAccess_of_admitted (s := { s with inputs := rest }) hadm _), ?_,
      fun hplain => ?_, hostLoad_value { s with inputs := rest } a⟩
    · rcases hostLoad_cases { s with inputs := rest } a with ⟨v, hg⟩ | ⟨v, hg⟩ <;> rw [hg] <;> rfl
    · rw [hostLoad_of_not_written (s := { s with inputs := rest }) hplain]
      exact ⟨rfl, BitVec.toNat_setWidth_of_le (by decide)⟩
  case outside =>
    rcases hin with hin | hin <;> rw [step_of_inputs hin]
    · exact memoryAccess_of_not_admitted (s := { s with inputs := rest }) hadm _
    · exact memoryAccess_of_not_admitted (s := { s with inputs := rest }) hadm _
  case window =>
    refine ⟨fun hlow hhigh hnot => ?_, fun hout => ?_⟩ <;> rcases hin with hin | hin <;> rw [step_of_inputs hin]
    · exact windowAccess_refused (s := { s with inputs := rest }) _ hlow hhigh hnot
    · exact windowAccess_refused (s := { s with inputs := rest }) _ hlow hhigh hnot
    · exact windowAccess_outside (s := { s with inputs := rest }) _ hsize hout
    · exact windowAccess_outside (s := { s with inputs := rest }) _ hsize hout

end Sys2Proof.Machine
end


section
/-!
SUPPORT and the statements about the reader as a stream of bits (42_bit_reader.md, 20_memory.md): BR.GET and BR.PEEK
on the stream (ReaderRefinesStream) and the stream of a window (StreamBitsOfWindow).  Before them stand parts of a
range and of a little-endian number, and `Took`: the reader n bits further in the same window, which a refill, a Peek,
a Consume and a Get each keep for their own n.
-/

namespace Sys2Proof.Machine

/-! ### Parts of a range (20_memory.md R63) -/

theorem add_ofNat_add (a : Word) (k m : Nat) :
    a + BitVec.ofNat 32 k + BitVec.ofNat 32 m = a + BitVec.ofNat 32 (k + m) := by
  rw [BitVec.add_assoc, BitVec.ofNat_add]

theorem InRange.drop {a c : Word} {k m n : Nat} (h : InRange (a + BitVec.ofNat 32 k) m c) (hm : m ≤ n - k) :
    InRange a n c := by
  obtain ⟨i, hi, rfl⟩ := h
  exact ⟨k + i, by omega, add_ofNat_add a k i⟩

theorem InRange.mono {a c : Word} {m n : Nat} (h : InRange a m c) (hm : m ≤ n) : InRange a n c := by
  obtain ⟨i, hi, rfl⟩ := h
  exact ⟨i, by omega, rfl⟩

theorem Settled.drop {s : State} {a : Word} {n k m : Nat} (h : Settled s a n) (hm : m ≤ n - k) :
    Settled s (a + BitVec.ofNat 32 k) m :=
  fun c hc => h c (hc.drop hm)

theorem Settled.mono {s : State} {a : Word} {m n : Nat} (h : Settled s a n) (hm : m ≤ n) : Settled s a m :=
  fun c hc => h c (hc.mono hm)

/-- The first n bytes are the low ones. -/
theorem State.leValue_add (s : State) (n m : Nat) (a : Word) :
    s.leValue (n + m) a = s.leValue n a + 256 ^ n * s.leValue m (a + BitVec.ofNat 32 n) := by
  induction n generalizing a with
  | zero => simp [State.leValue]
  | succ n ih =>
    rw [Nat.succ_add, State.leValue, State.leValue, ih, add_one_add_ofNat, Nat.pow_succ']
    ring

/-- Bit k of a little-endian number is bit k mod 8 of its byte k div 8 (20_memory.md R64). -/
theorem State.testBit_leValue (s : State) {n k : Nat} (hk : k < 8 * n) (a : Word) :
    (s.leValue n a).testBit k = (s.byteAt (a + BitVec.ofNat 32 (k / 8))).getLsbD (k % 8) := by
  induction n generalizing a k with
  | zero => omega
  | succ n ih =>
    have hval : s.leValue (n + 1) a = 2 ^ 8 * s.leValue n (a + 1) + (s.byteAt a).toNat := by
      rw [State.leValue]; omega
    rw [hval, Nat.testBit_two_pow_mul_add _ (s.byteAt a).isLt]
    split
    next hlow =>
      rw [Nat.div_eq_of_lt hlow, Nat.mod_eq_of_lt hlow, BitVec.add_zero]
      rfl
    next hhigh =>
      have hdiv : k / 8 = (k - 8) / 8 + 1 := by omega
      rw [ih (by omega), add_one_add_ofNat, hdiv, show (k - 8) % 8 = k % 8 by omega]

/-- The stream is one of the reader and memory alone. -/
theorem State.stream_congr {s t : State} (hbr : t.br = s.br) (hmem : t.mem = s.mem) : t.stream = s.stream := by
  rw [State.stream, State.stream, hbr, State.leValue_congr hmem]

/-! ### The reader n bits further (42_bit_reader.md R146 to R150) -/

/-- The reader of `t` stands n bits further in the window of `s`, and the refills still to come read bytes that the
refills from `s` on read. -/
structure Advanced (n : Nat) (s t : State) : Prop where
  ok : ReaderOk t.br
  available : t.available + n = s.available
  window : ∃ k, t.br.ptr = s.br.ptr + BitVec.ofNat 32 (4 * k) ∧ t.br.rem.toNat + 4 * k = s.br.rem.toNat
  settled : ∀ m, Settled s s.br.ptr (s.refillBytes (n + m)) → Settled t t.br.ptr (t.refillBytes m)

/-- Only the reader differs, and it stands n bits further in the same stream. -/
structure Took (n : Nat) (s t : State) : Prop extends Advanced n s t where
  frame : t = { s with br := t.br }
  stream : t.stream = s.stream / 2 ^ n

theorem Advanced.zero {s : State} (h : ReaderOk s.br) : Advanced 0 s s where
  ok := h
  available := rfl
  window := ⟨0, (BitVec.add_zero _).symm, rfl⟩
  settled m hm := by rwa [Nat.zero_add] at hm

theorem Advanced.trans {n m : Nat} {s t u : State} (h : Advanced n s t) (k : Advanced m t u) :
    Advanced (n + m) s u where
  ok := k.ok
  available := by rw [← h.available, ← k.available]; omega
  window := by
    obtain ⟨a, hptr, hrem⟩ := h.window
    obtain ⟨b, hptr', hrem'⟩ := k.window
    exact ⟨a + b, by rw [hptr', hptr, add_ofNat_add, Nat.mul_add], by omega⟩
  settled r hr := k.settled r (h.settled (m + r) (by rwa [← Nat.add_assoc]))

/-- Every byte still to be read was to be read before. -/
theorem Advanced.inRange {n : Nat} {s t : State} (h : Advanced n s t) {c : Word}
    (hc : InRange t.br.ptr (4 * (t.br.rem.toNat / 4)) c) : InRange s.br.ptr (4 * (s.br.rem.toNat / 4)) c := by
  obtain ⟨k, hptr, hrem⟩ := h.window
  rw [hptr] at hc
  exact hc.drop (by omega)

/-- Where no whole word is left the reader stands at the end of the window's whole words. -/
theorem Advanced.at_end {n : Nat} {s t : State} (h : Advanced n s t) (hend : t.br.rem.toNat < 4) :
    t.br.ptr = s.br.ptr + BitVec.ofNat 32 (4 * (s.br.rem.toNat / 4)) ∧ t.br.rem.toNat = s.br.rem.toNat % 4 := by
  obtain ⟨k, hptr, hrem⟩ := h.window
  rw [hptr, show 4 * (s.br.rem.toNat / 4) = 4 * k by omega]
  exact ⟨rfl, by omega⟩

theorem Took.zero {s : State} (h : ReaderOk s.br) : Took 0 s s :=
  ⟨.zero h, rfl, (Nat.div_one _).symm⟩

theorem Took.trans {n m : Nat} {s t u : State} (h : Took n s t) (k : Took m t u) : Took (n + m) s u :=
  ⟨h.toAdvanced.trans k.toAdvanced, by rw [k.frame, h.frame],
    by rw [k.stream, h.stream, Nat.div_div_eq_div_mul, Nat.pow_add]⟩

/-- A refill moves a word from memory to the buffer: the stream is the same. -/
theorem took_readerAhead {s : State} (h : ReaderOk s.br) (hc : s.br.cnt.toNat < 32) (hrem : 4 ≤ s.br.rem.toNat) :
    Took 0 s { s with br := s.readerAhead } := by
  have hcnt := State.readerAhead_cnt hc
  have hrem' := State.readerAhead_rem hrem
  have hbuf : s.readerAhead.buf.toNat = s.br.buf.toNat + 2 ^ s.br.cnt.toNat * s.leValue 4 s.br.ptr :=
    refilled_buf h hc (s.leValue_lt 4 s.br.ptr)
  have hwords : 4 * (s.br.rem.toNat / 4) = 4 + 4 * ((s.br.rem.toNat - 4) / 4) := by omega
  refine ⟨⟨refilled_ok h hc (s.leValue_lt 4 s.br.ptr), ?_, ⟨1, rfl, ?_⟩, fun m hm => ?_⟩, rfl, ?_⟩
  · simp only [State.available, hcnt, hrem']
    omega
  · simp only [hrem']
    omega
  · have hless : State.refillBytes { s with br := s.readerAhead } m ≤ s.refillBytes (0 + m) - 4 := by
      simp only [State.refillBytes, hcnt]
      omega
    exact hm.drop (s := s) (k := 4) hless
  · have hrest (n : Nat) (a : Word) : State.leValue { s with br := s.readerAhead } n a = s.leValue n a :=
      State.leValue_congr (by rfl) n a
    have hptr : s.readerAhead.ptr = s.br.ptr + BitVec.ofNat 32 4 := rfl
    simp only [State.stream, hrest, hbuf, hcnt, hrem', hptr, Nat.pow_zero, Nat.div_one]
    rw [hwords, State.leValue_add, Nat.pow_add]
    ring

/-- A Consume drops the low bits of the stream. -/
theorem took_consumed {n : Nat} {s : State} (h : ReaderOk s.br) (hn : n ≤ s.br.cnt.toNat) :
    Took n s { s with br := consumed s.br n } := by
  have hcnt := consumed_cnt hn
  have hpow : 2 ^ s.br.cnt.toNat = 2 ^ n * 2 ^ (s.br.cnt.toNat - n) := by rw [← Nat.pow_add, Nat.add_sub_cancel' hn]
  refine ⟨⟨?_, ?_, ⟨0, (BitVec.add_zero _).symm, rfl⟩, fun m hm => ?_⟩, rfl, ?_⟩
  · show (consumed s.br n).buf.toNat < 2 ^ (consumed s.br n).cnt.toNat
    rw [hcnt, consumed_buf]
    exact Nat.div_lt_of_lt_mul (hpow ▸ h)
  · simp only [State.available, hcnt]
    show _ + 32 * (s.br.rem.toNat / 4) + n = _
    omega
  · have hsame : State.refillBytes { s with br := consumed s.br n } m = s.refillBytes (n + m) := by
      simp only [State.refillBytes, hcnt]
      omega
    rw [hsame]
    exact hm
  · have hrest : State.leValue { s with br := consumed s.br n } (4 * (s.br.rem.toNat / 4)) s.br.ptr =
        s.leValue (4 * (s.br.rem.toNat / 4)) s.br.ptr := State.leValue_congr (by rfl) _ _
    simp only [State.stream, hcnt, consumed_buf]
    show _ + _ * State.leValue _ (4 * (s.br.rem.toNat / 4)) s.br.ptr = _
    rw [hrest, hpow, Nat.mul_assoc, Nat.add_mul_div_left _ _ (Nat.two_pow_pos n)]

/-- The low bits of the buffer are the first bits of the stream. -/
theorem lowBits_eq_stream {n : Nat} {s : State} (hn : n ≤ 32) (hc : n ≤ s.br.cnt.toNat) :
    (lowBits s.br n).toNat = s.stream % 2 ^ n := by
  have hpow : 2 ^ s.br.cnt.toNat = 2 ^ n * 2 ^ (s.br.cnt.toNat - n) := by rw [← Nat.pow_add, Nat.add_sub_cancel' hc]
  rw [lowBits_toNat hn, State.stream, hpow, Nat.mul_assoc, Nat.add_mul_mod_self_left]

/-- The bits are there and no refill that delivers them is a race or stuck. -/
structure Ready (n : Nat) (s : State) : Prop where
  ok : ReaderOk s.br
  enough : n ≤ s.available
  settled : Settled s s.br.ptr (s.refillBytes n)

theorem Ready.rest {n m : Nat} {s t : State} (h : Ready (n + m) s) (k : Advanced n s t) : Ready m t :=
  ⟨k.ok, by have := h.enough; have := k.available; omega, k.settled m h.settled⟩

theorem Ready.mono {n m : Nat} {s : State} (h : Ready n s) (hm : m ≤ n) : Ready m s :=
  ⟨h.ok, hm.trans h.enough, h.settled.mono (by unfold State.refillBytes; omega)⟩

/-- A Peek answers the first bits of the stream, and has buffered them. -/
theorem peek_of_ready {n : Nat} {s : State} (hn : n ≤ 32) (h : Ready n s) :
    ∃ v t, peek n s = .ok v t ∧ v.toNat = s.stream % 2 ^ n ∧ Took 0 s t ∧ n ≤ t.br.cnt.toNat := by
  obtain ⟨hok, henough, hset⟩ := h
  by_cases hc : n ≤ s.br.cnt.toNat
  · exact ⟨_, _, peek_buffered hc, lowBits_eq_stream hn hc, .zero hok, hc⟩
  · have hrem : 4 ≤ s.br.rem.toNat := by unfold State.available at henough; omega
    have hlow : s.br.cnt.toNat < 32 := by omega
    have hword : Settled s s.br.ptr 4 := hset.mono (by unfold State.refillBytes; omega)
    have htook := took_readerAhead hok hlow hrem
    have hcnt : n ≤ s.readerAhead.cnt.toNat := by rw [State.readerAhead_cnt hlow]; omega
    refine ⟨_, _, peek_of_settled (Nat.lt_of_not_le hc) hrem hword, ?_, htook, hcnt⟩
    have hstream : State.stream { s with br := s.readerAhead } = s.stream := by simpa using htook.stream
    rw [← hstream]
    exact lowBits_eq_stream (s := { s with br := s.readerAhead }) hn hcnt

/-- A Get answers the first bits of the stream and takes them (42_bit_reader.md R150). -/
theorem getBits_of_ready {n : Nat} {s : State} (hn : n ≤ 32) (h : Ready n s) :
    ∃ v t, getBits n s = .ok v t ∧ v.toNat = s.stream % 2 ^ n ∧ Took n s t := by
  rcases Nat.eq_zero_or_pos n with rfl | hpos
  · exact ⟨0, s, getBits_zero s, (Nat.mod_one _).symm, .zero h.ok⟩
  · obtain ⟨v, t, hp, hv, ht, hc⟩ := peek_of_ready hn h
    exact ⟨v, _, getBits_of_peek hpos hp hc, hv, by simpa using ht.trans (took_consumed ht.ok hc)⟩

/-- Where the window does not hold the bits a Get is an overrun. -/
theorem getBits_of_short {n : Nat} {s : State} (hn : n ≤ 32) (h : s.available < n) :
    getBits n s = .raise .readOverrun s.br.ptr s := by
  unfold State.available at h
  exact getBits_overrun (by omega) (by omega)

/-! ### The obligations -/

/-- Settles O17: both commands do what their primitive does to the stream, and the register they write is no part of
it. -/
theorem readerRefinesStream : Obligations.ReaderRefinesStream := by
  unfold Obligations.ReaderRefinesStream
  intro rd n s hn hinv havail hset
  have hready : Ready n.toNat s := ⟨hinv.reader, havail, hset⟩
  refine ⟨?get, ?peek⟩
  case get =>
    obtain ⟨v, u, hu, hv, htook⟩ := getBits_of_ready hn hready
    have hstream : (u.setX rd v).retire.stream = u.stream := State.stream_congr rfl rfl
    have hwork : commandWork (.brGet rd n) s = .ok () (u.setX rd v) := by rw [commandWork_brGet hn, hu, Res.bind_ok]
    refine ⟨_, exec_of_work_ok (by simp) hwork, ?_, ?_, hstream.trans htook.stream,
      Nat.eq_sub_of_add_eq htook.available⟩
    · rw [htook.frame]
      exact completed_of_sameButRegisters rfl
        (regs := fun _ hr => State.getX_setX_other _ v (List.ne_of_not_mem_cons hr)) (br := nofun)
    · rw [State.retire_getX, State.getX_setX_same, hv]
  case peek =>
    obtain ⟨v, u, hu, hv, htook, -⟩ := peek_of_ready hn hready
    have hstream : (u.setX rd v).retire.stream = u.stream := State.stream_congr rfl rfl
    have hwork : commandWork (.brPeek rd n) s = .ok () (u.setX rd v) := by rw [commandWork_brPeek hn, hu, Res.bind_ok]
    refine ⟨_, exec_of_work_ok (by simp) hwork, ?_, ?_, hstream.trans (by simpa using htook.stream),
      htook.available⟩
    · rw [htook.frame]
      exact completed_of_sameButRegisters rfl
        (regs := fun _ hr => State.getX_setX_other _ v (List.ne_of_not_mem_cons hr)) (br := nofun)
    · rw [State.retire_getX, State.getX_setX_same, hv]

/-- The stream of a window just opened is the little-endian number of its whole refill words. -/
theorem stream_of_opened {s : State} {p r : Word} (h : s.br = ⟨p, r, 0, 0⟩) :
    s.available = 32 * (r.toNat / 4) ∧ s.stream = s.leValue (4 * (r.toNat / 4)) p := by
  simp [State.available, State.stream, h]

/-- A window of whole refill words just opened over a settled range delivers the range's number. -/
theorem ready_of_opened {s : State} {p : Word} {n : Nat} (hn : n < 2 ^ 32) (hwords : n % 4 = 0) (hs : Settled s p n) :
    Ready (8 * n) (s.openReader p (BitVec.ofNat 32 n)) ∧
      (s.openReader p (BitVec.ofNat 32 n)).available = 8 * n ∧
      (s.openReader p (BitVec.ofNat 32 n)).stream = s.leValue n p := by
  obtain ⟨havail, hstream⟩ := stream_of_opened (s := s.openReader p (BitVec.ofNat 32 n)) rfl
  have hrem : (BitVec.ofNat 32 n).toNat = n := Nat.mod_eq_of_lt hn
  have hall : (s.openReader p (BitVec.ofNat 32 n)).refillBytes (8 * n) ≤ n := by
    simp only [State.refillBytes, State.openReader, BitVec.toNat_zero]
    omega
  rw [hrem] at havail hstream
  have havail' : (s.openReader p (BitVec.ofNat 32 n)).available = 8 * n := by omega
  refine ⟨⟨by simp [ReaderOk, State.openReader], havail'.ge, ?_⟩, havail', hstream.trans ?_⟩
  · exact (show Settled s p n from hs).mono hall
  · rw [show 4 * (n / 4) = n by omega]
    exact State.leValue_congr (by rfl) n p

/-- Settles O18: the stream of the opened window is a little-endian number, read bit by bit. -/
theorem streamBitsOfWindow : Obligations.StreamBitsOfWindow := by
  unfold Obligations.StreamBitsOfWindow
  intro ra rl s t ht
  obtain rfl : (s.openReader (s.getX ra) (s.getX rl)).retire = t := by
    simpa using (exec_of_work_ok (i := .brInit ra rl) (by simp) rfl).symm.trans ht
  obtain ⟨havail, hstream⟩ := stream_of_opened (s := (s.openReader (s.getX ra) (s.getX rl)).retire) rfl
  refine ⟨havail, fun k hk => ?_⟩
  rw [hstream, State.testBit_leValue _ (by omega)]
  rfl

end Sys2Proof.Machine
end


section
/-!
SUPPORT and the statements about the writer as a stream of bits (43_bit_writer.md, 45_encoder.md): fields pushed and
read back (PushThenGetReturnsFields), DC.EPH in a window that holds its phase (EphEncodesPhase) and in one that does
not (EphOverrunKeepsPushes).  Before them stand `StoredIn`, which stores a stretch of a command made, and `Wrote`, the
bits that one push or a list of pushes put behind the writer.
-/

namespace Sys2Proof.Machine

/-! ### Ranges at distances from one address (20_memory.md R67) -/

theorem apart_of_offsets (a : Word) {i j n m : Nat} (h : i + n ≤ j) (hm : j + m ≤ 2 ^ 32) :
    Apart (a + BitVec.ofNat 32 i) n (a + BitVec.ofNat 32 j) m := by
  rintro c ⟨k, hk, rfl⟩ ⟨l, hl, heq⟩
  rw [add_ofNat_add, add_ofNat_add] at heq
  have hnat := congrArg BitVec.toNat (BitVec.add_right_inj a |>.1 heq)
  rw [BitVec.toNat_ofNat, BitVec.toNat_ofNat, Nat.mod_eq_of_lt (by omega), Nat.mod_eq_of_lt (by omega)] at hnat
  omega

theorem Admitted.drop {s : State} {a : Word} {n k m : Nat} (h : Admitted s a n) (hm : m ≤ n - k) :
    Admitted s (a + BitVec.ofNat 32 k) m :=
  fun c hc => h c (hc.drop hm)

theorem Admitted.mono {s : State} {a : Word} {m n : Nat} (h : Admitted s a n) (hm : m ≤ n) : Admitted s a m :=
  fun c hc => h c (hc.mono hm)

theorem Admitted.congr {s t : State} {a : Word} {n : Nat} (h : Admitted s a n) (ht : t.holes = s.holes) :
    Admitted t a n := by
  intro c hc
  rw [State.admits, ht]
  exact h c hc

theorem Settled.admitted {s : State} {a : Word} {n : Nat} (h : Settled s a n) : Admitted s a n := fun c hc => (h c hc).1

/-! ### What a stretch of a command stores (20_memory.md R61) -/

/-- From `s` to `t` the block has stored bytes at addresses of `P` only, and the run's record has grown by those
stores. -/
structure StoredIn (P : Word → Prop) (s t : State) : Prop where
  mem : ∀ a, ¬P a → t.byteAt a = s.byteAt a
  past : ∃ l, t.past = l ++ s.past ∧ ∀ w ∈ l, w.byHost = false ∧ P w.addr

theorem StoredIn.of_same {P : Word → Prop} {s t : State} (hm : t.mem = s.mem) (hp : t.past = s.past) :
    StoredIn P s t where
  mem _ _ := by rw [State.byteAt, State.byteAt, hm]
  past := ⟨[], hp, fun _ hw => absurd hw List.not_mem_nil⟩

theorem StoredIn.mono {P Q : Word → Prop} {s t : State} (h : StoredIn P s t) (hPQ : ∀ a, P a → Q a) :
    StoredIn Q s t where
  mem a ha := h.mem a fun hp => ha (hPQ a hp)
  past := by
    obtain ⟨l, hl, hown⟩ := h.past
    exact ⟨l, hl, fun w hw => ⟨(hown w hw).1, hPQ _ (hown w hw).2⟩⟩

theorem StoredIn.trans {P : Word → Prop} {s t u : State} (h : StoredIn P s t) (k : StoredIn P t u) :
    StoredIn P s u where
  mem a ha := (k.mem a ha).trans (h.mem a ha)
  past := by
    obtain ⟨l, hl, hown⟩ := h.past
    obtain ⟨l', hl', hown'⟩ := k.past
    refine ⟨l' ++ l, by rw [hl', hl, List.append_assoc], fun w hw => ?_⟩
    rcases List.mem_append.1 hw with hw | hw
    · exact hown' w hw
    · exact hown w hw

theorem storedIn_storeLE {s : State} (h : s.mem.wf = true) (n : Nat) (a : Word) (v : Nat) :
    StoredIn (InRange a n) s (s.storeLE n a v) where
  mem _ hc := State.byteAt_storeLE_of_not_inRange h hc v
  past := Memory.pastLE_eq_append n s.mem s.past a v

/-- Bytes apart from the stores keep their number. -/
theorem StoredIn.leValue {P : Word → Prop} {s t : State} (h : StoredIn P s t) {n : Nat} {a : Word}
    (ha : ∀ c, InRange a n c → ¬P c) : t.leValue n a = s.leValue n a :=
  State.leValue_eq_of_bytes fun c hc => h.mem c (ha c hc)

/-- The block's own stores make no read of it a race. -/
theorem StoredIn.settled {P : Word → Prop} {s t : State} (h : StoredIn P s t) (ht : t.holes = s.holes) {n : Nat}
    {a : Word}
    (hs : Settled s a n) : Settled t a n := by
  obtain ⟨l, hl, hown⟩ := h.past
  refine fun c hc => ⟨(hs.admitted.congr ht) c hc, fun w hw hhost => ?_⟩
  rw [hl] at hw
  rcases List.mem_append.1 hw with hw | hw
  · exact absurd hhost (ne_true_of_eq_false (hown w hw).1)
  · exact (hs c hc).2 w hw hhost

/-- The frame of a completed command of the codec: it changes RNG, the units and memory. -/
theorem completed_of_storedIn {c : MayChange} {s t : State}
    (h : t = { s with rng := t.rng, br := t.br, bw := t.bw, mem := t.mem, past := t.past })
    (hst : StoredIn (fun a => ∃ p ∈ c.bytes, InRange p.1 p.2 a) s t) (rng : c.rng = false → t.rng = s.rng)
    (br : c.br = false → t.br = s.br) (bw : c.bw = false → t.bw = s.bw) : Completed c s t.retire where
  cp := by rw [h]; rfl
  cmdCount := by rw [h]; rfl
  regs _ _ := by rw [h]; rfl
  rng := rng
  br := br
  bw := bw
  curve _ := by rw [h]; exact .of_eq rfl
  geometry _ := by rw [h]; exact ⟨rfl, rfl, rfl, rfl⟩
  mem a ha := hst.mem a fun ⟨p, hp, hr⟩ => ha p hp hr
  past := hst.past
  control := by rw [h]; exact ⟨rfl, rfl, rfl, rfl, rfl, rfl, rfl, rfl, rfl⟩
  outside := by rw [h]; exact ⟨rfl, rfl, rfl, rfl, rfl⟩

/-! ### Bits put behind the writer (43_bit_writer.md R161, R163) -/

/-- How many whole bytes leave the accumulator when `bits` more bits enter it. -/
def State.wholeBytes (s : State) (bits : Nat) : Nat := (s.bw.cnt.toNat + bits) / 8

/-- The writer of `t` stands `bits` bits further, and these bits are those of v: the bytes written and the accumulator
together are the pending bits of `s` with v above them. -/
structure Wrote (bits v : Nat) (s t : State) : Prop where
  frame : t = { s with bw := t.bw, mem := t.mem, past := t.past }
  ok : EncodeOk t
  ptr : t.bw.ptr = s.bw.ptr + BitVec.ofNat 32 (s.wholeBytes bits)
  rem : t.bw.rem.toNat + s.wholeBytes bits = s.bw.rem.toNat
  cnt : t.bw.cnt.toNat = (s.bw.cnt.toNat + bits) % 8
  value : t.leValue (s.wholeBytes bits) s.bw.ptr + 256 ^ s.wholeBytes bits * t.bw.acc.toNat =
    s.bw.acc.toNat + 2 ^ s.bw.cnt.toNat * v
  stored : StoredIn (InRange s.bw.ptr (s.wholeBytes bits)) s t

theorem Wrote.zero {s : State} (h : EncodeOk s) : Wrote 0 0 s s := by
  have hnone : s.wholeBytes 0 = 0 := Nat.div_eq_of_lt s.bw.cnt.isLt
  refine ⟨rfl, h, ?_, ?_, (Nat.mod_eq_of_lt s.bw.cnt.isLt).symm, ?_, .of_same rfl rfl⟩
  · rw [hnone, BitVec.add_zero]
  · rw [hnone, Nat.add_zero]
  · rw [hnone, State.leValue, Nat.pow_zero, Nat.one_mul, Nat.zero_add, Nat.mul_zero, Nat.add_zero]

theorem Wrote.trans {b c v w : Nat} {s t u : State} (h : Wrote b v s t) (k : Wrote c w t u) :
    Wrote (b + c) (v + 2 ^ b * w) s u := by
  have hcount : s.wholeBytes (b + c) = s.wholeBytes b + t.wholeBytes c := by
    simp only [State.wholeBytes, h.cnt]; omega
  have hcnt : u.bw.cnt.toNat = (s.bw.cnt.toNat + (b + c)) % 8 := by rw [k.cnt, h.cnt]; omega
  have hsum : s.wholeBytes b + t.wholeBytes c ≤ s.bw.rem.toNat := by rw [← h.rem, ← k.rem]; omega
  have hapart : Apart s.bw.ptr (s.wholeBytes b) t.bw.ptr (t.wholeBytes c) := by
    rw [h.ptr]
    simpa using apart_of_offsets s.bw.ptr (i := 0) (n := s.wholeBytes b) (m := t.wholeBytes c) (Nat.zero_add _).le
      (hsum.trans s.bw.rem.isLt.le)
  refine ⟨by rw [k.frame, h.frame], k.ok, ?ptr, ?rem, hcnt, ?value, ?stored⟩
  case ptr => rw [k.ptr, h.ptr, hcount, add_ofNat_add]
  case rem => rw [hcount, ← h.rem, ← k.rem]; omega
  case value =>
    have hold : u.leValue (s.wholeBytes b) s.bw.ptr = t.leValue (s.wholeBytes b) s.bw.ptr := k.stored.leValue hapart
    have hbits : 256 ^ s.wholeBytes b * 2 ^ t.bw.cnt.toNat = 2 ^ s.bw.cnt.toNat * 2 ^ b := by
      rw [show (256 : Nat) = 2 ^ 8 from rfl, ← Nat.pow_mul, ← Nat.pow_add, ← Nat.pow_add, h.cnt, State.wholeBytes,
        Nat.div_add_mod]
    calc u.leValue (s.wholeBytes (b + c)) s.bw.ptr + 256 ^ s.wholeBytes (b + c) * u.bw.acc.toNat
        = t.leValue (s.wholeBytes b) s.bw.ptr + 256 ^ s.wholeBytes b *
            (u.leValue (t.wholeBytes c) t.bw.ptr + 256 ^ t.wholeBytes c * u.bw.acc.toNat) := by
          rw [hcount, State.leValue_add, hold, ← h.ptr, Nat.pow_add]; ring
      _ = (t.leValue (s.wholeBytes b) s.bw.ptr + 256 ^ s.wholeBytes b * t.bw.acc.toNat) +
            256 ^ s.wholeBytes b * 2 ^ t.bw.cnt.toNat * w := by rw [k.value]; ring
      _ = s.bw.acc.toNat + 2 ^ s.bw.cnt.toNat * (v + 2 ^ b * w) := by rw [h.value, hbits]; ring
  case stored =>
    rw [hcount]
    refine (h.stored.mono fun a ha => ha.mono (Nat.le_add_right _ _)).trans (k.stored.mono fun a ha => ?_)
    rw [h.ptr] at ha
    exact ha.drop (by omega)

/-- A push that has room puts its masked bits behind the writer. -/
theorem push_of_room {v n : Nat} {s : State} (h : EncodeOk s) (hw : s.writesLeft = none)
    (hrem : s.wholeBytes n ≤ s.bw.rem.toNat) (ha : Admitted s s.bw.ptr (s.wholeBytes n)) :
    ∃ t, push v n s = .ok () t ∧ Wrote n (v % 2 ^ n) s t := by
  have hwf : (State.mem { s with bw := pushed s.bw v n }).wf = true := h.mem
  have hpush := push_of_admitted (v := v) hw hrem ha
  refine ⟨_, hpush, ?_⟩
  refine ⟨rfl, by simpa only [hpush, Res.final_ok] using push_encodeOk v n s h, rfl, ?_, pushed_cnt .., ?_, ?_⟩
  · have hleft : (pushed s.bw v n).rem.toNat = s.bw.rem.toNat - s.wholeBytes n := emitted_rem hrem
    exact (congrArg (· + s.wholeBytes n) hleft).trans (Nat.sub_add_cancel hrem)
  · have hacc : (pushed s.bw v n).acc.toNat = pushAcc s.bw v n / 256 ^ s.wholeBytes n := pushed_acc h.writer v n
    rw [← pushAcc_eq h.writer]
    refine (congrArg₂ (· + 256 ^ s.wholeBytes n * ·) ?_ hacc).trans (Nat.mod_add_div _ _)
    exact State.leValue_storeLE hwf (hrem.trans s.bw.rem.isLt.le) _ _
  · exact ⟨(storedIn_storeLE hwf _ _ _).mem, (storedIn_storeLE hwf _ _ _).past⟩

/-- Pushes that have room put their fields behind the writer. -/
theorem pushAll_of_room {fs : List (Nat × Nat)} {s : State} (h : EncodeOk s) (hw : s.writesLeft = none)
    (hrem : s.wholeBytes (fieldBits fs) ≤ s.bw.rem.toNat) (ha : Admitted s s.bw.ptr (s.wholeBytes (fieldBits fs))) :
    ∃ t, pushAll fs s = .ok () t ∧ Wrote (fieldBits fs) (packFields fs) s t := by
  induction fs generalizing s with
  | nil => exact ⟨s, rfl, .zero h⟩
  | cons f fs ih =>
    obtain ⟨v, n⟩ := f
    have hle : s.wholeBytes n ≤ s.wholeBytes (fieldBits ((v, n) :: fs)) := by
      unfold State.wholeBytes fieldBits; omega
    obtain ⟨t, ht, hwrote⟩ := push_of_room (v := v) h hw (hle.trans hrem) (ha.mono hle)
    have hcount : s.wholeBytes (fieldBits ((v, n) :: fs)) = s.wholeBytes n + t.wholeBytes (fieldBits fs) := by
      simp only [State.wholeBytes, hwrote.cnt, fieldBits]; omega
    have hroom := hwrote.rem
    obtain ⟨u, hu, hrest⟩ := ih hwrote.ok (by rw [hwrote.frame]; exact hw) (by omega)
      (by
        rw [hwrote.ptr]
        exact (ha.drop (by omega)).congr (by rw [hwrote.frame]))
    exact ⟨u, by rw [pushAll, ht, Res.bind_ok, hu], hwrote.trans hrest⟩

/-- Pushes that have no room end at the first that does not fit, with those before it behind the writer. -/
theorem pushAll_of_short {fs : List (Nat × Nat)} {s : State} (h : EncodeOk s) (hw : s.writesLeft = none)
    (hrem : s.bw.rem.toNat < s.wholeBytes (fieldBits fs)) (ha : Admitted s s.bw.ptr s.bw.rem.toNat) :
    ∃ m f t, fs[m]? = some f ∧ s.bw.rem.toNat < s.wholeBytes (fieldBits (fs.take m) + f.2) ∧
      pushAll fs s = .raise .writeOverrun t.bw.ptr t ∧
      Wrote (fieldBits (fs.take m)) (packFields (fs.take m)) s t := by
  induction fs generalizing s with
  | nil =>
    have hcnt := s.bw.cnt.isLt
    unfold State.wholeBytes fieldBits at hrem
    omega
  | cons f fs ih =>
    obtain ⟨v, n⟩ := f
    rcases Nat.lt_or_ge s.bw.rem.toNat (s.wholeBytes n) with hshort | hroom
    · refine ⟨0, (v, n), s, rfl, by simpa [fieldBits] using hshort, ?_, .zero h⟩
      rw [pushAll, push_overrun hshort, Res.bind_raise]
    · obtain ⟨t, ht, hwrote⟩ := push_of_room (v := v) h hw hroom (ha.mono hroom)
      have hcount (b : Nat) : s.wholeBytes (n + b) = s.wholeBytes n + t.wholeBytes b := by
        simp only [State.wholeBytes, hwrote.cnt]; omega
      have hleft := hwrote.rem
      rw [fieldBits, hcount] at hrem
      obtain ⟨m, f, u, hf, hlast, hu, hrest⟩ := ih hwrote.ok (by rw [hwrote.frame]; exact hw) (by omega)
        (by
          rw [hwrote.ptr]
          exact (ha.drop (by omega)).congr (by rw [hwrote.frame]))
      refine ⟨m + 1, f, u, hf, ?_, by rw [pushAll, ht, Res.bind_ok, hu], hwrote.trans hrest⟩
      rw [List.take_succ_cons, fieldBits, Nat.add_assoc, hcount]
      omega

/-! ### Fields read back (42_bit_reader.md R150) -/

/-- Gets of the widths of fields the stream begins with answer their masked values. -/
theorem getAll_of_ready {fs : List (Nat × Nat)} {s : State} (hn : ∀ f ∈ fs, f.2 ≤ 32) (h : Ready (fieldBits fs) s)
    (hst : s.stream = packFields fs) : ∃ u, getAll (fs.map (·.2)) s = .ok (fs.map fun f => f.1 % 2 ^ f.2) u := by
  induction fs generalizing s with
  | nil => exact ⟨s, rfl⟩
  | cons f fs ih =>
    obtain ⟨v, n⟩ := f
    obtain ⟨hfirst, hrest⟩ := List.forall_mem_cons.1 hn
    obtain ⟨x, t, ht, hx, htook⟩ := getBits_of_ready hfirst (h.mono (Nat.le_add_right _ _))
    have hlow : v % 2 ^ n < 2 ^ n := Nat.mod_lt _ (Nat.two_pow_pos n)
    have hpack : t.stream = packFields fs := by
      rw [htook.stream, hst, packFields, Nat.add_mul_div_left _ _ (Nat.two_pow_pos n), Nat.div_eq_of_lt hlow,
        Nat.zero_add]
    obtain ⟨u, hu⟩ := ih hrest (h.rest htook.toAdvanced) hpack
    have hvalue : x.toNat = v % 2 ^ n := by
      rw [hx, hst, packFields, Nat.add_mul_mod_self_left, Nat.mod_mod]
    exact ⟨u, by rw [List.map_cons, getAll, ht, Res.bind_ok, hu, Res.bind_ok, hvalue, List.map_cons]⟩

/-- Settles O21: the pushes leave nothing pending, so the bytes they wrote are the packed fields, and these are the
stream of a reader opened over them. -/
theorem pushThenGetReturnsFields : Obligations.PushThenGetReturnsFields := by
  unfold Obligations.PushThenGetReturnsFields
  intro fs s hinv hstore hcnt hwidths hbits hrem hset
  have hbytes : s.wholeBytes (fieldBits fs) = fieldBits fs / 8 := by rw [State.wholeBytes, hcnt, Nat.zero_add]
  obtain ⟨t, ht, hwrote⟩ := pushAll_of_room (fs := fs) ⟨hinv.writer, hstore.canonical⟩ hstore.settled
    (hbytes ▸ hrem) (hbytes ▸ hset.admitted)
  have hnone {w : BitWriter} (h : WriterOk w) (hc : w.cnt.toNat = 0) : w.acc.toNat = 0 := by
    have := h; rw [WriterOk, hc] at this; omega
  have hvalue : t.leValue (fieldBits fs / 8) s.bw.ptr = packFields fs := by
    have hv := hwrote.value
    rwa [hnone hinv.writer hcnt, hnone hwrote.ok.writer (by rw [hwrote.cnt]; omega), hbytes, hcnt, Nat.mul_zero,
      Nat.add_zero, Nat.pow_zero, Nat.one_mul, Nat.zero_add] at hv
  refine ⟨t, ht, hvalue, ?_⟩
  have hwindow := ready_of_opened (by omega) (by omega)
    (hwrote.stored.settled (t := t) (by rw [hwrote.frame]) hset)
  obtain ⟨hready, -, hstream⟩ := hwindow
  exact getAll_of_ready hwidths (hready.mono (by omega)) (hstream.trans hvalue)

/-! ### A phase behind the writer (45_encoder.md R196, R203) -/

/-- Samples read where no read is a race are the codes of the block. -/
theorem readCodes_of_settled {src : Word} {j n i : Nat} {s : State}
    (h : ∀ k, i ≤ k → k < i + n → Settled s (sampleAddr src j k) 2) :
    readCodes src j n i s =
      .ok ((List.range' i n).map fun k => reverseLookup s.tc (s.leValue 2 (sampleAt src (j + 2 * k))) / 2) s := by
  induction n generalizing i with
  | zero => rfl
  | succ n ih =>
    rw [readCodes, memRead_of_settled 2 _ (h i le_rfl (by omega)), Res.bind_ok,
      ih fun k hk hlt => h k (by omega) (by omega), Res.bind_ok, List.range'_succ, List.map_cons, Nat.shiftRight_one]
    rfl

theorem encodePhase_of_settled {src : Word} {j : Nat} {s : State} (h : ∀ i, i < 16 → Settled s (sampleAddr src j i) 2) :
    encodePhase src j s = pushAll (phaseFields (s.sampleCodes src j)) s := by
  rw [encodePhase, readCodes_of_settled fun k _ hk => h k (by omega), Res.bind_ok, State.sampleCodes,
    List.range_eq_range']

theorem sampleCodes_length (s : State) (src : Word) (j : Nat) : (s.sampleCodes src j).length = 16 := by
  rw [State.sampleCodes, List.length_map, List.length_range]

theorem fieldBits_sampleCodes (s : State) (src : Word) (j : Nat) :
    fieldBits (phaseFields (s.sampleCodes src j)) = 128 :=
  fieldBits_phaseFields (sampleCodes_length s src j)

/-- A phase is 16 bytes, whatever is pending. -/
theorem State.wholeBytes_phase (s : State) : s.wholeBytes 128 = 16 := by
  have hcnt := s.bw.cnt.isLt
  unfold State.wholeBytes
  omega

theorem Wrote.cnt_of_phase {v : Nat} {s t : State} (h : Wrote 128 v s t) : t.bw.cnt = s.bw.cnt :=
  BitVec.eq_of_toNat_eq (by have hcnt := s.bw.cnt.isLt; rw [h.cnt]; omega)

/-- A phase that has room puts its 128 bits behind the writer. -/
theorem encodePhase_of_room {src : Word} {j : Nat} {s : State} (h : EncodeOk s) (hw : s.writesLeft = none)
    (hrem : 16 ≤ s.bw.rem.toNat) (ha : Admitted s s.bw.ptr 16) (hs : ∀ i, i < 16 → Settled s (sampleAddr src j i) 2) :
    ∃ t, encodePhase src j s = .ok () t ∧ Wrote 128 (phaseValue (s.sampleCodes src j)) s t := by
  have hbits := fieldBits_sampleCodes s src j
  obtain ⟨t, ht, hwrote⟩ := pushAll_of_room (fs := phaseFields (s.sampleCodes src j)) h hw
    (by rw [hbits, s.wholeBytes_phase]; exact hrem) (by rw [hbits, s.wholeBytes_phase]; exact ha)
  rw [hbits] at hwrote
  exact ⟨t, (encodePhase_of_settled hs).trans ht, hwrote⟩

theorem commandWork_dcEph {s : State} (hv : s.tcValid = true) (ra : Reg) (j : Phase) :
    commandWork (.dcEph ra j) s = encodePhase (s.getX ra) j.val s := by
  rw [commandWork, requireTable_of_valid hv, Res.bind_ok]

/-- Settles O40: the samples are all read first, and the fields of their phase have room for 16 bytes. -/
theorem ephEncodesPhase : Obligations.EphEncodesPhase := by
  unfold Obligations.EphEncodesPhase
  intro ra j s hv hinv hstore hrem hadm hset
  obtain ⟨t, ht, hwrote⟩ := encodePhase_of_room ⟨hinv.writer, hstore.canonical⟩ hstore.settled hrem hadm hset
  have hptr := hwrote.ptr
  have hleft := hwrote.rem
  have hvalue := hwrote.value
  have hstored := hwrote.stored
  rw [s.wholeBytes_phase] at hptr hleft hvalue hstored
  refine ⟨t.retire, exec_of_work_ok (by simp) ((commandWork_dcEph hv ra j).trans ht), ?_, hptr, ?_, hwrote.cnt_of_phase,
    ?_⟩
  · refine completed_of_storedIn (by rw [hwrote.frame]) (hstored.mono fun a ha => ?_) ?_ ?_ nofun
    · exact ⟨_, List.mem_singleton_self _, ha⟩
    · exact fun _ => by rw [hwrote.frame]
    · exact fun _ => by rw [hwrote.frame]
  · rw [← hleft, Nat.add_sub_cancel]
    rfl
  · rw [State.leValue_congr (s := t) (by rfl)]
    exact hvalue

/-- Settles O41: the pushes before the first that does not fit stand behind the writer, and that one has no effect. -/
theorem ephOverrunKeepsPushes : Obligations.EphOverrunKeepsPushes := by
  unfold Obligations.EphOverrunKeepsPushes
  rintro ra j s fields hv hinv hstore hrem hadm hset rfl
  have hshort : s.bw.rem.toNat < s.wholeBytes (fieldBits (phaseFields (s.sampleCodes (s.getX ra) j.val))) := by
    rw [fieldBits_sampleCodes, s.wholeBytes_phase]; exact hrem
  obtain ⟨m, f, t, hf, hlast, ht, hwrote⟩ := pushAll_of_short ⟨hinv.writer, hstore.canonical⟩ hstore.settled hshort hadm
  have hwork := (commandWork_dcEph hv ra j).trans ((encodePhase_of_settled hset).trans ht)
  have hleft := hwrote.rem
  refine ⟨_, m, _, f, hf, rfl, Nat.le.intro ((Nat.add_comm ..).trans hleft), by rw [Nat.add_assoc]; exact hlast,
    exec_of_work_raise (by simp) hwork, ?_, hwrote.ptr, Nat.eq_sub_of_add_eq hleft, hwrote.cnt, ?_, hwrote.stored.mem⟩
  · rw [hwrote.frame]
    rfl
  · rw [State.leValue_congr (s := t) (by rfl), Nat.pow_mul, show 2 ^ 8 = 256 from rfl]
    exact hwrote.value

end Sys2Proof.Machine
end


section
/-!
SUPPORT and the statements about one decoded phase (44_decoder.md): PHASE_ORDER (PhaseOrderFault), DC.DPH in a window
that holds its phase (DphCompletes, DphDecodesPhase) and in one that does not (DphOverrunKeepsElements).  Before them
stand the header read from the stream, the code of an element read from the stream, and `Decoded`: the first i
elements of a phase are decoded, which the step of one element keeps.
-/

namespace Sys2Proof.Machine

/-! ### The header (44_decoder.md R177, R178) -/

/-- The header of the phase whose stream is st (30_encoding.md R98). -/
def streamHead (st : Nat) : PhaseHead := ⟨phaseMax st, phaseMin st, phaseImax st, phaseImin st⟩

/-- Both codes of a header are read before they are compared. -/
theorem readHead_codes {s : State} (h : Ready 22 s) :
    ∃ (mx mn : Word) (t : State), mx.toNat = phaseMax s.stream ∧ mn.toNat = phaseMin s.stream ∧ Took 22 s t ∧
      readHead s = if mx.toNat < mn.toNat then .raise .phaseOrder ((mx <<< 16) ||| mn) t
        else (getBits 4 t).bind fun imax u => (getBits 4 u).bind fun imin w =>
          .ok ⟨mx.toNat, mn.toNat, imax.toNat, imin.toNat⟩ w := by
  obtain ⟨mx, t, ht, hmx, htook⟩ := getBits_of_ready (by decide) (h.mono (m := 11) (by decide))
  obtain ⟨mn, u, hu, hmn, htook'⟩ := getBits_of_ready (n := 11) (by decide) (Ready.rest (m := 11) h htook.toAdvanced)
  rw [htook.stream] at hmn
  exact ⟨mx, mn, u, hmx, hmn, htook.trans htook', by rw [readHead, ht, Res.bind_ok, hu, Res.bind_ok]⟩

theorem readHead_of_ready {s : State} (h : Ready 30 s) (hle : phaseMin s.stream ≤ phaseMax s.stream) :
    ∃ t, readHead s = .ok (streamHead s.stream) t ∧ Took 30 s t := by
  obtain ⟨mx, mn, t, hmx, hmn, htook, heq⟩ := readHead_codes (h.mono (by decide))
  have hrest : Ready 8 t := Ready.rest (n := 22) h htook.toAdvanced
  obtain ⟨imax, u, hu, himax, htook'⟩ := getBits_of_ready (by decide) (hrest.mono (m := 4) (by decide))
  obtain ⟨imin, w, hw, himin, htook''⟩ := getBits_of_ready (n := 4) (by decide)
    (Ready.rest (m := 4) hrest htook'.toAdvanced)
  rw [htook.stream] at himax
  rw [(htook.trans htook').stream] at himin
  refine ⟨w, ?_, (htook.trans htook').trans htook''⟩
  rw [heq, if_neg (by omega), hu, Res.bind_ok, hw, Res.bind_ok, hmx, hmn, himax, himin]
  rfl

theorem readHead_of_order {s : State} (h : Ready 22 s) (hlt : phaseMax s.stream < phaseMin s.stream) :
    ∃ t, readHead s =
      .raise .phaseOrder (BitVec.ofNat 32 (65536 * phaseMax s.stream + phaseMin s.stream)) t ∧ Took 22 s t := by
  obtain ⟨mx, mn, t, hmx, hmn, htook, heq⟩ := readHead_codes h
  have hmn' : phaseMin s.stream < 2 ^ 16 := (Nat.mod_lt _ (Nat.two_pow_pos 11)).trans (by decide)
  have hinfo : (mx <<< 16) ||| mn = BitVec.ofNat 32 (65536 * phaseMax s.stream + phaseMin s.stream) := by
    apply BitVec.eq_of_toNat_eq
    have hmx' : phaseMax s.stream < 2 ^ 11 := Nat.mod_lt _ (Nat.two_pow_pos 11)
    rw [BitVec.toNat_or, BitVec.toNat_shiftLeft, hmx, hmn, BitVec.toNat_ofNat, Nat.mod_eq_of_lt (by
      rw [Nat.shiftLeft_eq]; omega), ← Nat.shiftLeft_add_eq_or_of_lt hmn', Nat.shiftLeft_eq,
      Nat.mod_eq_of_lt (by omega)]
    omega
  exact ⟨t, by rw [heq, if_pos (by omega), hinfo], htook⟩

/-- How many bits of a header are consumed where the window holds `a` bits of it. -/
def headBits (a : Nat) : Nat := if a < 11 then 0 else if a < 22 then 11 else if a < 26 then 22 else 26

/-- A primitive has ended in an overrun, with `bits` bits consumed and no whole word left in the window. -/
def Overran {α : Type} (bits : Nat) (s : State) (r : Res α) : Prop :=
  ∃ t, r = .raise .readOverrun t.br.ptr t ∧ Took bits s t ∧ t.br.rem.toNat < 4

theorem Overran.bind {α β : Type} {bits : Nat} {s : State} {r : Res α} (h : Overran bits s r) (f : α → State → Res β) :
    Overran bits s (r.bind f) := by
  obtain ⟨t, ht, htook, hend⟩ := h
  exact ⟨t, by rw [ht, Res.bind_raise], htook, hend⟩

/-- The Get that finds too few bits ends its primitive there. -/
theorem Overran.getBits {n m : Nat} {s t : State} (hn : n ≤ 32) (h : Took m s t) (hshort : s.available < m + n) :
    Overran m s (getBits n t) := by
  have havail := h.available
  refine ⟨t, getBits_of_short hn (by omega), h, ?_⟩
  unfold State.available at *
  omega

/-- The bits of the window that are there can be read. -/
abbrev WindowReady (s : State) : Prop := Ready s.available s

theorem windowReady_of_settled {s : State} (h : ReaderOk s.br) (hs : Settled s s.br.ptr (4 * (s.br.rem.toNat / 4))) :
    WindowReady s :=
  ⟨h, le_rfl, hs.mono (by unfold State.refillBytes State.available; omega)⟩

theorem readHead_of_short {s : State} (h : WindowReady s) (hshort : s.available < 30)
    (hle : 22 ≤ s.available → phaseMin s.stream ≤ phaseMax s.stream) :
    Overran (headBits s.available) s (readHead s) := by
  unfold headBits
  split
  next hlt => exact (Overran.getBits (m := 0) (by decide) (.zero h.ok) (by omega)).bind _
  next hge =>
    obtain ⟨mx, t, ht, -, htook⟩ := getBits_of_ready (n := 11) (by decide) (h.mono (by omega))
    split
    next hlt =>
      rw [readHead, ht, Res.bind_ok]
      exact (Overran.getBits (m := 11) (by decide) htook (by omega)).bind _
    next hge' =>
      obtain ⟨mx, mn, t, hmx, hmn, htook, heq⟩ := readHead_codes (h.mono (by omega))
      have hord := hle (by omega)
      have hnot : ¬mx.toNat < mn.toNat := by omega
      rw [heq, if_neg hnot]
      split
      next hlt => exact (Overran.getBits (n := 4) (m := 22) (by decide) htook (by omega)).bind _
      next hge'' =>
        have hrest : Ready 4 t := Ready.rest (n := 22) (h.mono (by omega)) htook.toAdvanced
        obtain ⟨imax, u, hu, -, htook'⟩ := getBits_of_ready (n := 4) (by decide) hrest
        rw [hu, Res.bind_ok]
        exact (Overran.getBits (n := 4) (m := 26) (by decide) (htook.trans htook') (by omega)).bind _

/-! ### The obligations about the header -/

theorem commandWork_dcDph {s : State} (hv : s.tcValid = true) (ra : Reg) (j : Phase) :
    commandWork (.dcDph ra j) s = decodePhase (s.getX ra) j.val s := by
  rw [commandWork, requireTable_of_valid hv, Res.bind_ok]

/-- Settles O34: the header is read before any element, and raises after both codes. -/
theorem phaseOrderFault : Obligations.PhaseOrderFault := by
  unfold Obligations.PhaseOrderFault
  intro ra j s hv hinv hlt henough hset
  obtain ⟨t, ht, htook⟩ := readHead_of_order ⟨hinv.reader, henough, hset⟩ hlt
  have hwork := (commandWork_dcDph hv ra j).trans (show decodePhase _ _ s = _ by rw [decodePhase, ht, Res.bind_raise])
  have hstream (c : FaultCode) (info : Word) : (t.enterFault c info).stream = t.stream := State.stream_congr rfl rfl
  refine ⟨_, exec_of_work_raise (by simp) hwork, ?_, (hstream _ _).trans htook.stream,
    Nat.eq_sub_of_add_eq htook.available⟩
  rw [htook.frame]
  rfl

/-! ### The codes of the elements (44_decoder.md R177, R179) -/

/-- The bits element i of a phase takes. -/
theorem residualIndex_succ (st i : Nat) :
    residualIndex st (i + 1) = residualIndex st i + if i = phaseImax st ∨ i = phaseImin st then 0 else 1 := by
  rw [residualIndex, residualIndex, List.range_succ, List.countP_append, List.countP_singleton]
  by_cases hmax : i = phaseImax st <;> by_cases hmin : i = phaseImin st <;> simp [hmax, hmin]

theorem residualIndex_mono (st : Nat) {i k : Nat} (h : i ≤ k) : residualIndex st i ≤ residualIndex st k := by
  induction k, h using Nat.le_induction with
  | base => exact le_rfl
  | succ k _ ih => rw [residualIndex_succ]; exact ih.trans (Nat.le_add_right _ _)

/-- The bits before element i. -/
def bitsBefore (st i : Nat) : Nat := 30 + 7 * residualIndex st i

theorem bitsBefore_succ (st i : Nat) :
    bitsBefore st (i + 1) = bitsBefore st i + if i = phaseImax st ∨ i = phaseImin st then 0 else 7 := by
  rw [bitsBefore, bitsBefore, residualIndex_succ]
  split <;> omega

theorem bitsBefore_mono (st : Nat) {i k : Nat} (h : i ≤ k) : bitsBefore st i ≤ bitsBefore st k := by
  have := residualIndex_mono st h
  unfold bitsBefore
  omega

theorem phaseCode_le (st i : Nat) : phaseCode st i ≤ 2047 := by
  have hmax : phaseMax st < 2 ^ 11 := Nat.mod_lt _ (Nat.two_pow_pos 11)
  have hmin : phaseMin st < 2 ^ 11 := Nat.mod_lt _ (Nat.two_pow_pos 11)
  unfold phaseCode
  split
  · omega
  · split
    · omega
    · exact Nat.min_le_left _ _

theorem elementCode_imax {h : PhaseHead} {i : Nat} (hi : i = h.imax) (s : State) : elementCode h i s = .ok h.mx s :=
  if_pos hi

theorem elementCode_imin {h : PhaseHead} {i : Nat} (hmax : i ≠ h.imax) (hi : i = h.imin) (s : State) :
    elementCode h i s = .ok h.mn s :=
  (if_neg hmax).trans (if_pos hi)

theorem elementCode_residual {h : PhaseHead} {i : Nat} (hmax : i ≠ h.imax) (hmin : i ≠ h.imin) (s : State) :
    elementCode h i s = (getBits 7 s).bind fun res t => .ok (decodeResidual h res.toNat) t :=
  (if_neg hmax).trans (if_neg hmin)

/-- An element reads its residual if it has one, and its code is then that of the stream, where the reader stands before
its residual. -/
theorem elementCode_of_ready {st i n : Nat} {s : State} (hn : bitsBefore st (i + 1) = bitsBefore st i + n)
    (h : Ready n s) :
    ∃ v t, elementCode (streamHead st) i s = .ok v t ∧ Took n s t ∧ v ≤ 2047 ∧
      (s.stream = st / 2 ^ bitsBefore st i → v = phaseCode st i) := by
  have hle := phaseCode_le st i
  rw [bitsBefore_succ] at hn
  by_cases hmax : i = phaseImax st
  · obtain rfl : n = 0 := by rw [if_pos (.inl hmax)] at hn; omega
    have hcode : phaseMax st = phaseCode st i := (if_pos hmax).symm
    exact ⟨_, s, elementCode_imax hmax s, .zero h.ok, hcode.trans_le hle, fun _ => hcode⟩
  · by_cases hmin : i = phaseImin st
    · obtain rfl : n = 0 := by rw [if_pos (.inr hmin)] at hn; omega
      have hcode : phaseMin st = phaseCode st i := ((if_neg hmax).trans (if_pos hmin)).symm
      exact ⟨_, s, elementCode_imin hmax hmin s, .zero h.ok, hcode.trans_le hle, fun _ => hcode⟩
    · obtain rfl : n = 7 := by rw [if_neg (not_or.2 ⟨hmax, hmin⟩)] at hn; omega
      obtain ⟨v, t, ht, hv, htook⟩ := getBits_of_ready (n := 7) (by decide) h
      refine ⟨decodeResidual (streamHead st) v.toNat, t, ?_, htook, Nat.min_le_left _ _, fun hst => ?_⟩
      · rw [elementCode_residual hmax hmin, ht, Res.bind_ok]
      · rw [phaseCode, if_neg hmax, if_neg hmin, decodeResidual, hv, hst, Nat.shiftLeft_eq]
        rfl

theorem elementCode_of_short {st i n : Nat} {t : State} (hn : bitsBefore st (i + 1) = bitsBefore st i + n)
    (h : t.available < n) (hok : ReaderOk t.br) : Overran 0 t (elementCode (streamHead st) i t) := by
  rw [bitsBefore_succ] at hn
  split at hn
  next => omega
  next hres =>
    obtain rfl : n = 7 := by omega
    obtain ⟨hmax, hmin⟩ := not_or.1 hres
    rw [elementCode_residual hmax hmin]
    exact (Overran.getBits (m := 0) (by decide) (.zero hok) (by omega)).bind _

/-! ### The slots (20_memory.md R83) -/

/-- An address in one of the first i slots of a phase. -/
def InSlots (dst : Word) (j i : Nat) (c : Word) : Prop := ∃ k, k < i ∧ InRange (sampleAddr dst j k) 2 c

/-- No slot meets a byte the reader can still read. -/
def SlotsApart (dst : Word) (j : Nat) (s : State) : Prop :=
  ∀ i, i < 16 → Apart (sampleAddr dst j i) 2 s.br.ptr (4 * (s.br.rem.toNat / 4))

/-- Two slots of a phase have no byte in common. -/
theorem slots_apart (dst : Word) {j i k : Nat} (hj : j < 2) (hk : k < 16) (hne : i < k) :
    Apart (sampleAddr dst j i) 2 (sampleAddr dst j k) 2 :=
  apart_of_offsets dst (by omega) (by omega)

theorem InSlots.mono {dst c : Word} {j i k : Nat} (h : InSlots dst j i c) (hk : i ≤ k) : InSlots dst j k c := by
  obtain ⟨m, hm, hc⟩ := h
  exact ⟨m, hm.trans_le hk, hc⟩

/-! ### What stores leave of the reader (42_bit_reader.md R150) -/

theorem advanced_of_stored {P : Word → Prop} {s t : State} (h : StoredIn P s t) (hbr : t.br = s.br)
    (hholes : t.holes = s.holes) (hok : ReaderOk s.br) : Advanced 0 s t where
  ok := hbr ▸ hok
  available := by simp only [State.available, hbr, Nat.add_zero]
  window := ⟨0, by rw [hbr, Nat.mul_zero, BitVec.add_zero], by rw [hbr, Nat.mul_zero, Nat.add_zero]⟩
  settled m hm := by
    rw [hbr, State.refillBytes, hbr]
    rw [Nat.zero_add] at hm
    exact h.settled hholes hm

theorem stream_of_stored {P : Word → Prop} {s t : State} (h : StoredIn P s t) (hbr : t.br = s.br)
    (ha : ∀ c, InRange s.br.ptr (4 * (s.br.rem.toNat / 4)) c → ¬P c) : t.stream = s.stream := by
  rw [State.stream, State.stream, hbr, h.leValue ha]

/-! ### The elements (44_decoder.md R177) -/

theorem rngAfter_succ (k r : Nat) : rngAfter (k + 1) r = rngNext (rngAfter k r) := by
  induction k generalizing r with
  | zero => rfl
  | succ k ih => rw [rngAfter, ih, rngAfter]

/-- The sample of element i of a phase, the dithered code of its field. -/
def phaseSample (s : State) (i : Nat) : Nat :=
  pixelOf (s.tcEntry (2 * phaseCode s.stream i)) (rngAfter i s.rng.toNat)

/-- The first i elements of the phase at the reader of `s` are decoded, into the first i slots, and `bits` bits of it
are consumed. -/
structure Decoded (dst : Word) (j i bits : Nat) (s t : State) : Prop extends Advanced bits s t where
  frame : t = { s with br := t.br, rng := t.rng, mem := t.mem, past := t.past }
  canonical : t.mem.wf = true
  rng : t.rng.toNat = rngAfter i s.rng.toNat
  stored : StoredIn (InSlots dst j i) s t
  decoded : TableInv s → SlotsApart dst j s → t.stream = s.stream / 2 ^ bits ∧
    ∀ k, k < i → t.leValue 2 (sampleAddr dst j k) = phaseSample s k

theorem Took.decoded_zero {bits : Nat} {s t : State} (h : Took bits s t) (hwf : s.mem.wf = true) (dst : Word)
    (j : Nat) :
    Decoded dst j 0 bits s t where
  toAdvanced := h.toAdvanced
  frame := by rw [h.frame]
  canonical := by rw [h.frame]; exact hwf
  rng := by rw [h.frame]; rfl
  stored := .of_same (by rw [h.frame]) (by rw [h.frame])
  decoded _ _ := ⟨h.stream, fun _ hk => absurd hk (Nat.not_lt_zero _)⟩

/-- An element whose code is read: RNG takes one step and its pixel under the old RNG is stored in its slot. -/
theorem decodeElement_of_code {dst : Word} {j i v : Nat} {h : PhaseHead} {s t : State}
    (hc : elementCode h i s = .ok v t)
    (hwf : t.mem.wf = true) (hw : t.writesLeft = none) (ha : Admitted t (sampleAddr dst j i) 2) :
    ∃ u, decodeElement dst j h i s = .ok () u ∧ u = { t with rng := lcg t.rng, mem := u.mem, past := u.past } ∧
      u.mem.wf = true ∧ StoredIn (InRange (sampleAddr dst j i) 2) t u ∧
      u.leValue 2 (sampleAddr dst j i) = (ditherPixel (t.tcEntry (v <<< 1)) t.rng).toNat := by
  have hwf' : (State.mem { t with rng := lcg t.rng }).wf = true := hwf
  have hstored := storedIn_storeLE hwf' 2 (sampleAddr dst j i) (ditherPixel (t.tcEntry (v <<< 1)) t.rng).toNat
  refine ⟨State.storeLE { t with rng := lcg t.rng } 2 (sampleAddr dst j i)
      (ditherPixel (t.tcEntry (v <<< 1)) t.rng).toNat, ?_, rfl, Memory.writeLE_wf hwf' ..,
    ⟨hstored.mem, hstored.past⟩, ?_⟩
  · rw [decodeElement, hc, Res.bind_ok, dither, Res.bind_ok]
    exact memWrite_of_admitted (s := { t with rng := lcg t.rng }) hw ha _
  · exact (State.leValue_storeLE hwf' (by decide) _ _).trans (Nat.mod_eq_of_lt (BitVec.isLt _))

/-- The sample stored for a code is its pixel under the old RNG. -/
theorem pixel_of_code {s t : State} (htable : TableInv s) (hv : s.tcValid = true) (htc : t.tc = s.tc) {v : Nat}
    (hle : v ≤ 2047) : (ditherPixel (t.tcEntry (v <<< 1)) t.rng).toNat = pixelOf (s.tcEntry (2 * v)) t.rng.toNat := by
  have hentry : t.tcEntry (v <<< 1) = s.tcEntry (2 * v) := by
    rw [State.tcEntry, State.tcEntry, htc, Nat.shiftLeft_eq, Nat.pow_one, Nat.mul_comm]
  have hlt := pixelOf_le htable hv (i := 2 * v) (by omega) t.rng.toNat
  rw [hentry]
  exact ditherPixel_toNat (by omega)

/-- The step of one element. -/
theorem Decoded.step {dst : Word} {j i n : Nat} {s t : State} (h : Decoded dst j i (bitsBefore s.stream i) s t)
    (hn : bitsBefore s.stream (i + 1) = bitsBefore s.stream i + n) (hr : Ready n t) (hi : i < 16) (hj : j < 2)
    (hv : s.tcValid = true) (hw : s.writesLeft = none) (ha : Admitted s (sampleAddr dst j i) 2) :
    ∃ u, decodeElement dst j (streamHead s.stream) i t = .ok () u ∧
      Decoded dst j (i + 1) (bitsBefore s.stream (i + 1)) s u := by
  obtain ⟨v, r, hcode, htook, hle, hvalue⟩ := elementCode_of_ready hn hr
  have hrs : r = { s with br := r.br, rng := t.rng, mem := t.mem, past := t.past } := by rw [htook.frame, h.frame]
  have hrng : r.rng = t.rng := by rw [hrs]
  have hmem : r.mem = t.mem := by rw [hrs]
  obtain ⟨u, hu, hframe, hwf, hru, hval⟩ := decodeElement_of_code (dst := dst) (j := j) hcode (hmem ▸ h.canonical)
    (by rw [hrs]; exact hw) (ha.congr (by rw [hrs]))
  have hbr : u.br = r.br := by rw [hframe]
  have htu : StoredIn (InRange (sampleAddr dst j i) 2) t u := (StoredIn.of_same hmem (by rw [hrs])).trans hru
  have hadv : Advanced (n + 0) t u :=
    htook.toAdvanced.trans (advanced_of_stored hru hbr (by rw [hframe]) htook.ok)
  refine ⟨u, hu, hn ▸ h.toAdvanced.trans hadv, ?frame, hwf, ?rng, ?stored, fun htable hapart => ?decoded⟩
  case frame => rw [hframe, hrs]
  case rng =>
    have hstepped : u.rng = lcg r.rng := by rw [hframe]
    rw [hstepped, lcg_toNat, hrng, h.rng, rngAfter_succ]
  case stored =>
    exact (h.stored.mono fun c hc => hc.mono i.le_succ).trans (htu.mono fun c hc => ⟨i, i.lt_succ_self, hc⟩)
  case decoded =>
    obtain ⟨hstream, hsamples⟩ := h.decoded htable hapart
    have hwindow : u.stream = r.stream := stream_of_stored hru hbr fun c hc hslot =>
      hapart i hi c hslot (h.inRange (htook.inRange hc))
    refine ⟨by rw [hwindow, htook.stream, hstream, Nat.div_div_eq_div_mul, hn, Nat.pow_add], fun k hk => ?_⟩
    rcases Nat.lt_succ_iff_lt_or_eq.1 hk with hlt | rfl
    · rw [htu.leValue fun c hc hslot => slots_apart dst hj hi hlt c hc hslot, hsamples k hlt]
    · rw [hval, pixel_of_code htable hv (by rw [hrs]) hle, hvalue hstream, hrng, h.rng, phaseSample]

/-- Elements whose bits are there are decoded. -/
theorem decodeElements_of_ready {dst : Word} {j n : Nat} {s t : State} (h : Decoded dst j 0 30 s t)
    (hr : Ready (bitsBefore s.stream n) s) (hn : n ≤ 16) (hj : j < 2) (hv : s.tcValid = true) (hw : s.writesLeft = none)
    (ha : ∀ i, i < n → Admitted s (sampleAddr dst j i) 2) :
    ∃ u, forRange (decodeElement dst j (streamHead s.stream)) n 0 t = .ok () u ∧
      Decoded dst j n (bitsBefore s.stream n) s u := by
  have hloop := forRange_ok (P := fun i u => Decoded dst j i (bitsBefore s.stream i) s u)
    (body := decodeElement dst j (streamHead s.stream)) (last := n) (fun i u hi hu => ?_) n 0 t (Nat.zero_add n).le h
  · simpa only [Nat.zero_add] using hloop
  · have hsplit := Nat.add_sub_cancel' (bitsBefore_mono s.stream i.le_succ)
    have hready : Ready (bitsBefore s.stream i + (bitsBefore s.stream (i + 1) - bitsBefore s.stream i)) s :=
      hsplit.symm ▸ hr.mono (bitsBefore_mono s.stream hi)
    exact hu.step hsplit.symm (hready.rest hu.toAdvanced) (by omega) hj hv hw (ha i hi)

/-- A phase with max ≥ min whose bits are there is decoded. -/
theorem decodePhase_of_ready {dst : Word} {j : Nat} {s : State} (hwf : s.mem.wf = true)
    (hle : phaseMin s.stream ≤ phaseMax s.stream) (hr : Ready (phaseBits s.stream) s) (hj : j < 2)
    (hv : s.tcValid = true) (hw : s.writesLeft = none) (ha : ∀ i, i < 16 → Admitted s (sampleAddr dst j i) 2) :
    ∃ u, decodePhase dst j s = .ok () u ∧ Decoded dst j 16 (phaseBits s.stream) s u := by
  obtain ⟨t, ht, htook⟩ := readHead_of_ready (hr.mono (Nat.le_add_right _ _)) hle
  obtain ⟨u, hu, hdec⟩ := decodeElements_of_ready (htook.decoded_zero hwf dst j) hr le_rfl hj hv hw ha
  exact ⟨u, by rw [decodePhase, ht, Res.bind_ok, hu], hdec⟩

/-- Settles O31: the phase is decoded, and what it stores lies in its slots. -/
theorem dphCompletes : Obligations.DphCompletes := by
  unfold Obligations.DphCompletes
  intro ra j s hv hinv hstore hle henough hset hadm
  obtain ⟨u, hu, hdec⟩ := decodePhase_of_ready hstore.canonical hle ⟨hinv.reader, henough, hset⟩ j.isLt hv
    hstore.settled hadm
  refine ⟨_, exec_of_work_ok (by simp) ((commandWork_dcDph hv ra j).trans hu), ?_, hdec.rng,
    Nat.eq_sub_of_add_eq hdec.available⟩
  refine completed_of_storedIn (by rw [hdec.frame]) (hdec.stored.mono ?_) nofun nofun (fun _ => by rw [hdec.frame])
  rintro a ⟨i, hi, ha⟩
  exact ⟨_, List.mem_map.2 ⟨i, List.mem_range.2 hi, rfl⟩, ha⟩

/-- Settles O32: no slot meets a byte still to be read, so every code is that of the stream. -/
theorem dphDecodesPhase : Obligations.DphDecodesPhase := by
  unfold Obligations.DphDecodesPhase
  intro ra j s hv htable hinv hstore hle henough hset hadm hapart
  obtain ⟨u, hu, hdec⟩ := decodePhase_of_ready hstore.canonical hle ⟨hinv.reader, henough, hset⟩ j.isLt hv
    hstore.settled hadm
  obtain ⟨hstream, hsamples⟩ := hdec.decoded htable hapart
  have hsame (n : Nat) (a : Word) : u.retire.leValue n a = u.leValue n a := State.leValue_congr (by rfl) n a
  refine ⟨_, exec_of_work_ok (by simp) ((commandWork_dcDph hv ra j).trans hu),
    (State.stream_congr (s := u) (by rfl) (by rfl)).trans hstream,
    fun i hi => (hsame _ _).trans (hsamples i hi)⟩

/-! ### A window that ends inside a phase (44_decoder.md R182, 60_exceptions.md R219) -/

/-- Where a predicate holds of a first part of the numbers, its count is the length of that part. -/
theorem lt_countP_range {p : Nat → Bool} (hp : ∀ i, p (i + 1) = true → p i = true) {n i : Nat} (hi : i < n) :
    i < (List.range n).countP p ↔ p i = true := by
  have hbelow {k : Nat} (hk : p k = true) {i : Nat} (h : i ≤ k) : p i = true :=
    Nat.decreasingInduction (fun m _ hm => hp m hm) hk h
  by_cases h : p i = true
  · have hall : (List.range (i + 1)).countP p = i + 1 := by
      rw [List.countP_eq_length.2 fun k hk => hbelow h (Nat.lt_succ_iff.1 (List.mem_range.1 hk)), List.length_range]
    have hsub : (List.range (i + 1)).countP p ≤ (List.range n).countP p :=
      (List.range_sublist.2 hi).countP_le
    exact iff_of_true (by omega) h
  · have hnone : ((List.range (n - i)).map (i + ·)).countP p = 0 := by
      refine List.countP_eq_zero.2 fun k hk hpk => ?_
      obtain ⟨m, -, rfl⟩ := List.mem_map.1 hk
      exact h (hbelow hpk (Nat.le_add_right i m))
    have hsplit : (List.range n).countP p = (List.range i).countP p := by
      rw [show n = i + (n - i) by omega, List.range_add, List.countP_append, hnone, Nat.add_zero]
    have hle : (List.range i).countP p ≤ i := by simpa using List.countP_le_length (p := p) (l := List.range i)
    exact iff_of_false (by omega) h

/-- How many elements of a phase fit a window of `a` bits. -/
def elementsIn (st a : Nat) : Nat := (List.range 16).countP fun i => decide (bitsBefore st (i + 1) ≤ a)

theorem lt_elementsIn {st a i : Nat} (hi : i < 16) : i < elementsIn st a ↔ bitsBefore st (i + 1) ≤ a := by
  have hmono (k : Nat) (hk : decide (bitsBefore st (k + 1 + 1) ≤ a) = true) :
      decide (bitsBefore st (k + 1) ≤ a) = true :=
    decide_eq_true ((bitsBefore_mono st (k + 1).le_succ).trans (of_decide_eq_true hk))
  exact (lt_countP_range hmono hi).trans decide_eq_true_iff

/-- The bits consumed of a phase in a window of `a` bits that ends inside it. -/
def phaseBitsIn (st a : Nat) : Nat := if a < 30 then headBits a else bitsBefore st (elementsIn st a)

/-- A loop is its first m iterations and those after them. -/
theorem forRange_add (body : Nat → State → Res Unit) (m n i : Nat) (s : State) :
    forRange body (m + n) i s = (forRange body m i s).bind fun _ t => forRange body n (i + m) t := by
  induction m generalizing i s with
  | zero => rw [Nat.zero_add, forRange_zero, Res.bind_ok, Nat.add_zero]
  | succ m ih =>
    rw [Nat.succ_add, forRange_succ, forRange_succ, Res.bind_assoc]
    simp only [ih, Nat.add_assoc, Nat.add_comm 1 m]

theorem Decoded.took {dst : Word} {j i bits : Nat} {s t u : State} (h : Decoded dst j i bits s t) (k : Took 0 t u) :
    Decoded dst j i bits s u where
  toAdvanced := h.toAdvanced.trans k.toAdvanced
  frame := by rw [k.frame, h.frame]
  canonical := by rw [k.frame]; exact h.canonical
  rng := by rw [k.frame]; exact h.rng
  stored := h.stored.trans (.of_same (by rw [k.frame]) (by rw [k.frame]))
  decoded htable hapart := by
    obtain ⟨hstream, hsamples⟩ := h.decoded htable hapart
    refine ⟨by rw [k.stream, Nat.pow_zero, Nat.div_one, hstream], fun m hm => ?_⟩
    rw [State.leValue_congr (s := t) (by rw [k.frame]), hsamples m hm]

/-- The elements that fit are decoded, and the next one is an overrun. -/
theorem decodePhase_of_short {dst : Word} {j : Nat} {s : State} (hwf : s.mem.wf = true) (h : WindowReady s)
    (hshort : s.available < phaseBits s.stream) (hle : 22 ≤ s.available → phaseMin s.stream ≤ phaseMax s.stream)
    (hj : j < 2) (hv : s.tcValid = true) (hw : s.writesLeft = none)
    (ha : ∀ i, i < 16 → Admitted s (sampleAddr dst j i) 2) :
    ∃ t, decodePhase dst j s = .raise .readOverrun t.br.ptr t ∧ t.br.rem.toNat < 4 ∧
      Decoded dst j (elementsIn s.stream s.available) (phaseBitsIn s.stream s.available) s t := by
  by_cases hhead : s.available < 30
  · have hnone : elementsIn s.stream s.available = 0 := by
      refine Nat.eq_zero_of_not_pos fun hpos => ?_
      have := (lt_elementsIn (by decide)).1 hpos
      unfold bitsBefore at this
      omega
    obtain ⟨t, ht, htook, hend⟩ := readHead_of_short h hhead hle
    refine ⟨t, by rw [decodePhase, ht, Res.bind_raise], hend, ?_⟩
    rw [hnone, phaseBitsIn, if_pos hhead]
    exact htook.decoded_zero hwf dst j
  · rw [phaseBitsIn, if_neg hhead]
    generalize hcount : elementsIn s.stream s.available = count
    have hlt : count < 16 := by
      have hlast : ¬15 < count := by
        rw [← hcount, lt_elementsIn (by decide)]
        exact Nat.not_le.2 hshort
      omega
    have hfits : bitsBefore s.stream count ≤ s.available := by
      rcases Nat.eq_zero_or_pos count with rfl | hpos
      · exact Nat.not_lt.1 hhead
      · have := (lt_elementsIn (i := count - 1) (by omega)).1 (by omega : count - 1 < elementsIn s.stream s.available)
        rwa [Nat.sub_add_cancel hpos] at this
    have hnext : s.available < bitsBefore s.stream (count + 1) :=
      Nat.not_le.1 fun hle => Nat.lt_irrefl count (hcount ▸ (lt_elementsIn hlt).2 hle)
    obtain ⟨t, ht, htook⟩ := readHead_of_ready (h.mono (Nat.not_lt.1 hhead)) (hle (by omega))
    obtain ⟨u, hu, hdec⟩ := decodeElements_of_ready (htook.decoded_zero hwf dst j) (h.mono hfits) hlt.le hj hv hw
      fun i hi => ha i (hi.trans hlt)
    have hbits := hdec.available
    have hsplit := Nat.add_sub_cancel' (bitsBefore_mono s.stream (Nat.le_add_right count 1))
    obtain ⟨w, hw', htook', hend⟩ := (elementCode_of_short hsplit.symm (by omega) hdec.ok).bind
      fun v t => (dither (v <<< 1) t).bind fun p u => memWrite 2 (sampleAddr dst j count) p.toNat u
    have helement : decodeElement dst j (streamHead s.stream) count u = .raise .readOverrun w.br.ptr w := hw'
    refine ⟨w, ?_, hend, hdec.took htook'⟩
    rw [decodePhase, ht, Res.bind_ok, show 16 = count + (15 - count + 1) by omega, forRange_add, hu, Res.bind_ok,
      Nat.zero_add, forRange_succ, helement, Res.bind_raise]

/-- Settles O33: the first part of the phase is decoded as in a longer window, and the Get that ends it has no effect.
-/
theorem dphOverrunKeepsElements : Obligations.DphOverrunKeepsElements := by
  unfold Obligations.DphOverrunKeepsElements
  rintro ra j s count bits hv htable hinv hstore hshort hle hset hadm hapart rfl rfl
  have hready := windowReady_of_settled hinv.reader hset
  obtain ⟨t, ht, hend, hdec⟩ := decodePhase_of_short hstore.canonical hready hshort hle j.isLt hv hstore.settled hadm
  obtain ⟨hstream, hsamples⟩ := hdec.decoded htable hapart
  obtain ⟨hptr, hrem⟩ := hdec.at_end hend
  have hbits : phaseBitsIn s.stream s.available = if s.available < 11 then 0 else if s.available < 22 then 11
      else if s.available < 26 then 22 else if s.available < 30 then 26
      else bitsBefore s.stream (elementsIn s.stream s.available) := by
    unfold phaseBitsIn headBits
    split_ifs <;> omega
  have hsame (n : Nat) (a : Word) : (t.enterFault .readOverrun t.br.ptr).leValue n a = t.leValue n a :=
    State.leValue_congr (by rfl) n a
  rw [hbits] at hstream
  have havail := hdec.available
  rw [hbits] at havail
  refine ⟨_, exec_of_work_raise (by simp) ((commandWork_dcDph hv ra j).trans ht), ?_, hptr, hrem,
    Nat.eq_sub_of_add_eq havail,
    (State.stream_congr (s := t) (by rfl) (by rfl)).trans hstream, hdec.rng,
    fun i hi => (hsame _ _).trans (hsamples i hi), fun a ha => ?_⟩
  · rw [hdec.frame]
    rfl
  · exact hdec.stored.mem a fun ⟨i, hi, hr⟩ => ha i hi hr

end Sys2Proof.Machine
end


section
/-!
SUPPORT for the statements about encoded rows and images (45_encoder.md): a row of blocks behind a fresh writer
(`EncodedRow`) and an image of rows (`EncodedImage`).  Before them stand a loop over the phases of blocks, and what is
left of a range once another is known to be apart from it.
-/

namespace Sys2Proof.Machine

/-! ### Loops over the phases of blocks (45_encoder.md R201, 44_decoder.md R180) -/

/-- An invariant indexed by the phase, two phases a block. -/
theorem forBlocks_ok {P : Nat → State → Prop} {body : Nat → Nat → State → Res Unit} {n : Nat}
    (hb : ∀ b j s, b < n → j < 2 → P (2 * b + j) s → ∃ t, body b j s = .ok () t ∧ P (2 * b + j + 1) t) {s : State}
    (h : P 0 s) : ∃ t, forRange (fun b => forRange (body b) 2 0) n 0 s = .ok () t ∧ P (2 * n) t := by
  have hblock (b : Nat) (t : State) (hlt : b < n) (ht : P (2 * b) t) :
      ∃ u, forRange (body b) 2 0 t = .ok () u ∧ P (2 * (b + 1)) u :=
    forRange_ok (P := fun j => P (2 * b + j)) (last := 2) (fun j u hj hu => hb b j u hlt hj hu) 2 0 t le_rfl ht
  simpa only [Nat.zero_add] using forRange_ok (P := fun b => P (2 * b)) hblock n 0 s (Nat.zero_add n).le h

/-! ### Ranges that have another apart from them (20_memory.md R67, R80) -/

/-- A range that leaves room for another is not all of memory. -/
theorem Apart.lt {a b : Word} {n m : Nat} (h : Apart a n b m) (hm : 0 < m) : n < 2 ^ 32 := by
  refine Nat.not_le.1 fun hn => h b ⟨(b - a).toNat, (b - a).isLt.trans_le hn, ?_⟩ ⟨0, hm, (BitVec.add_zero b).symm⟩
  rw [BitVec.ofNat_toNat, BitVec.setWidth_eq, BitVec.add_comm, BitVec.sub_add_cancel]

theorem Apart.drop_left {a b : Word} {n m k r : Nat} (h : Apart a n b m) (hr : r ≤ n - k) :
    Apart (a + BitVec.ofNat 32 k) r b m :=
  fun c hc => h c (hc.drop hr)

theorem Apart.drop_right {a b : Word} {n m k r : Nat} (h : Apart a n b m) (hr : r ≤ m - k) :
    Apart a n (b + BitVec.ofNat 32 k) r :=
  fun c hc hc' => h c hc (hc'.drop hr)

/-! ### The samples of a block (45_encoder.md R196) -/

theorem Settled.slots {s : State} {a : Word} (h : Settled s a 64) {j : Nat} (hj : j < 2) {i : Nat} (hi : i < 16) :
    Settled s (sampleAddr a j i) 2 :=
  h.drop (by omega)

/-- Stores apart from a block leave its codes. -/
theorem StoredIn.sampleCodes {P : Word → Prop} {s t : State} (h : StoredIn P s t) (htc : t.tc = s.tc) {a : Word}
    {j : Nat}
    (hj : j < 2) (ha : ∀ c, InRange a 64 c → ¬P c) : t.sampleCodes a j = s.sampleCodes a j := by
  refine List.map_congr_left fun i hi => ?_
  have hslot (c : Word) (hc : InRange (sampleAt a (j + 2 * i)) 2 c) : ¬P c :=
    ha c (hc.drop (by have := List.mem_range.1 hi; omega))
  rw [htc, h.leValue hslot]

/-! ### A row (45_encoder.md R201) -/

/-- The codes of phase q of a row of samples at src, two phases a block. -/
def State.phaseCodes (s : State) (src : Word) (q : Nat) : List Nat := s.sampleCodes (blockAddr src (q / 2)) (q % 2)

/-- The first p phases of a row of w samples at src are behind the writer of `s`. -/
structure EncodedPhases (src : Word) (w p : Nat) (s t : State) : Prop where
  wrote : ∃ v, Wrote (128 * p) v s t
  phases : Apart s.bw.ptr w src (2 * w) → ∀ q, q < p →
    t.leValue 16 (s.bw.ptr + BitVec.ofNat 32 (16 * q)) = phaseValue (s.phaseCodes src q)

/-- With nothing pending a phase is 16 bytes of its own. -/
theorem Wrote.leValue_of_phase {v : Nat} {s t : State} (h : Wrote 128 v s t) (hok : WriterOk s.bw)
    (hcnt : s.bw.cnt.toNat = 0) : t.leValue 16 s.bw.ptr = v := by
  have hnone {w : BitWriter} (hw : WriterOk w) (hc : w.cnt.toNat = 0) : w.acc.toNat = 0 := by
    have := hw; rw [WriterOk, hc] at this; omega
  have hvalue := h.value
  rwa [s.wholeBytes_phase, hnone hok hcnt, hnone h.ok.writer (by rw [h.cnt_of_phase, hcnt]), hcnt, Nat.mul_zero,
    Nat.add_zero, Nat.pow_zero, Nat.one_mul, Nat.zero_add] at hvalue

theorem wholeBytes_of_phases {s : State} (h : s.bw.cnt.toNat = 0) (p : Nat) : s.wholeBytes (128 * p) = 16 * p := by
  unfold State.wholeBytes
  omega

theorem Wrote.cnt_of_phases {p v : Nat} {s t : State} (h : Wrote (128 * p) v s t) (hcnt : s.bw.cnt.toNat = 0) :
    t.bw.cnt.toNat = 0 := by
  rw [h.cnt, hcnt]
  omega

/-- The step of one phase. -/
theorem EncodedPhases.step {src : Word} {w b j : Nat} {s t : State} (h : EncodedPhases src w (2 * b + j) s t)
    (hcnt : s.bw.cnt.toNat = 0) (hrem : s.bw.rem.toNat = w) (hb : 32 * b + 32 ≤ w) (hj : j < 2)
    (hw : s.writesLeft = none) (ha : Admitted s s.bw.ptr w) (hs : Settled s src (2 * w)) :
    ∃ u, encodePhase (blockAddr src b) j t = .ok () u ∧ EncodedPhases src w (2 * b + j + 1) s u := by
  obtain ⟨v, hwrote⟩ := h.wrote
  have hbytes := wholeBytes_of_phases hcnt (2 * b + j)
  have hleft := hwrote.rem
  have hptr := hwrote.ptr
  have hstored := hwrote.stored
  rw [hbytes] at hleft hptr hstored
  have hblock : Settled t (blockAddr src b) 64 :=
    (hstored.settled (by rw [hwrote.frame]) hs).drop (by omega)
  obtain ⟨u, hu, hphase⟩ := encodePhase_of_room (src := blockAddr src b) (j := j) hwrote.ok
    (by rw [hwrote.frame]; exact hw)
    (by omega) (by rw [hptr]; exact (ha.drop (by omega)).congr (by rw [hwrote.frame])) fun i hi => hblock.slots hj hi
  refine ⟨u, hu, ⟨_, hwrote.trans hphase⟩, fun hapart q hq => ?_⟩
  rcases Nat.lt_succ_iff_lt_or_eq.1 hq with hlt | rfl
  · rw [hphase.stored.leValue fun c hc hnew => ?_, h.phases hapart q hlt]
    rw [t.wholeBytes_phase, hptr] at hnew
    have hwlt := s.bw.rem.isLt
    exact apart_of_offsets s.bw.ptr (i := 16 * q) (j := 16 * (2 * b + j)) (by omega) (by omega) c hc hnew
  · rw [← hptr, hphase.leValue_of_phase hwrote.ok.writer (hwrote.cnt_of_phases hcnt), State.phaseCodes,
      show (2 * b + j) / 2 = b by omega, show (2 * b + j) % 2 = j by omega,
      hstored.sampleCodes (by rw [hwrote.frame]) hj fun c hc hnew => ?_]
    exact hapart c (hnew.mono (by omega)) (hc.drop (by omega))

theorem writer_eq_of_done {w : BitWriter} {p : Word} (hptr : w.ptr = p) (hrem : w.rem.toNat = 0)
    (hacc : w.acc.toNat = 0)
    (hcnt : w.cnt.toNat = 0) : w = ⟨p, 0, 0, 0⟩ := by
  obtain ⟨ptr, rem, acc, cnt⟩ := w
  exact BitWriter.mk.injEq .. ▸
    ⟨hptr, BitVec.eq_of_toNat_eq hrem, BitVec.eq_of_toNat_eq hacc, BitVec.eq_of_toNat_eq hcnt⟩

/-- The row of w samples at src is encoded at dst. -/
structure EncodedRow (dst src : Word) (w : Nat) (s t : State) : Prop where
  frame : t = { s with bw := ⟨dst + BitVec.ofNat 32 w, 0, 0, 0⟩, mem := t.mem, past := t.past }
  canonical : t.mem.wf = true
  stored : StoredIn (InRange dst w) s t
  phases : Apart dst w src (2 * w) → ∀ q, q < w / 16 →
    t.leValue 16 (dst + BitVec.ofNat 32 (16 * q)) = phaseValue (s.phaseCodes src q)

/-- The blocks of a row fill its window exactly. -/
theorem encodeRow_of_settled {dst src : Word} {w : Nat} {s : State} (hlt : w < 2 ^ 32) (hmul : w % 32 = 0)
    (hwf : s.mem.wf = true) (hw : s.writesLeft = none) (hs : Settled s src (2 * w)) (ha : Admitted s dst w) :
    ∃ t, encodeRow dst src w s = .ok () t ∧ EncodedRow dst src w s t := by
  have hrem : (s.openWriter dst (BitVec.ofNat 32 w)).bw.rem.toNat = w := Nat.mod_eq_of_lt hlt
  have hok : EncodeOk (s.openWriter dst (BitVec.ofNat 32 w)) := ⟨by simp [WriterOk, State.openWriter], hwf⟩
  obtain ⟨t, ht, ⟨v, hwrote⟩, hphases⟩ := forBlocks_ok (n := w / 32)
    (P := fun p => EncodedPhases src w p (s.openWriter dst (BitVec.ofNat 32 w)))
    (body := fun b j => encodePhase (blockAddr src b) j)
    (fun b j u hb hj hu => hu.step rfl hrem (by omega) hj hw ha hs)
    ⟨⟨0, .zero hok⟩, fun _ _ hq => absurd hq (Nat.not_lt_zero _)⟩
  have hbytes : (s.openWriter dst (BitVec.ofNat 32 w)).wholeBytes (128 * (2 * (w / 32))) = w := by
    rw [wholeBytes_of_phases rfl]; omega
  have hptr := hwrote.ptr
  have hleft := hwrote.rem
  have hstored := hwrote.stored
  rw [hbytes] at hptr hleft hstored
  have hcnt : t.bw.cnt.toNat = 0 := hwrote.cnt_of_phases rfl
  have hacc : t.bw.acc.toNat = 0 := by
    have := hwrote.ok.writer; rw [WriterOk, hcnt] at this; omega
  have hbw : t.bw = ⟨dst + BitVec.ofNat 32 w, 0, 0, 0⟩ :=
    writer_eq_of_done hptr (by omega) hacc hcnt
  refine ⟨t, by rw [encodeRow, ht, Res.bind_ok, finish_of_no_pending hcnt, Res.bind_ok], ?_, hwrote.ok.mem,
    ⟨hstored.mem, hstored.past⟩, fun hapart q hq => ?_⟩
  · rw [← hbw, hwrote.frame]
    rfl
  · exact hphases hapart q (by omega)

/-! ### An image (45_encoder.md R202, R205) -/

/-- The first r rows of an image of rows of w samples at src are encoded at dst. -/
structure EncodedRows (dst src : Word) (w h r : Nat) (s t : State) : Prop where
  frame : t = { s with bw := t.bw, mem := t.mem, past := t.past }
  canonical : t.mem.wf = true
  stored : StoredIn (InRange dst (w * r)) s t
  writer : t.bw = if r = 0 then s.bw else ⟨dst + BitVec.ofNat 32 (w * r), 0, 0, 0⟩
  phases : Apart dst (w * h) src (2 * w * h) → ∀ k q, k < r → q < w / 16 →
    t.leValue 16 (dst + BitVec.ofNat 32 (k * w) + BitVec.ofNat 32 (16 * q)) =
      phaseValue (s.phaseCodes (src + BitVec.ofNat 32 (2 * k * w)) q)

theorem EncodedRows.step {dst src : Word} {w h r : Nat} {s t : State} (hr : EncodedRows dst src w h r s t) (hlt : r < h)
    (hwlt : w < 2 ^ 32) (hmul : w % 32 = 0) (hw : s.writesLeft = none) (hs : Settled s src (2 * w * h))
    (ha : Admitted s dst (w * h)) :
    ∃ u, encodeRow (dst + BitVec.ofNat 32 (r * w)) (src + BitVec.ofNat 32 (2 * r * w)) w t = .ok () u ∧
      EncodedRows dst src w h (r + 1) s u := by
  have hholes : t.holes = s.holes := by rw [hr.frame]
  have hfit : r * w + w ≤ w * h := by
    calc r * w + w = w * (r + 1) := by ring
      _ ≤ w * h := Nat.mul_le_mul_left w hlt
  have htwo : 2 * r * w = 2 * (r * w) := Nat.mul_assoc ..
  have htwo' : 2 * w * h = 2 * (w * h) := Nat.mul_assoc ..
  have hnext : w * (r + 1) = r * w + w := by ring
  have hsofar : w * r = r * w := Nat.mul_comm ..
  have hrow : Settled t (src + BitVec.ofNat 32 (2 * r * w)) (2 * w) := (hr.stored.settled hholes hs).drop (by omega)
  obtain ⟨u, hu, henc⟩ := encodeRow_of_settled (dst := dst + BitVec.ofNat 32 (r * w)) hwlt hmul hr.canonical
    (by rw [hr.frame]; exact hw) hrow ((ha.drop (by omega)).congr hholes)
  refine ⟨u, hu, ?frame, henc.canonical, ?stored, ?writer, fun hapart k q hk hq => ?phases⟩
  case frame => rw [henc.frame, hr.frame]
  case stored =>
    rw [hnext]
    exact (hr.stored.mono fun c hc => hc.mono (by omega)).trans (henc.stored.mono fun c hc => hc.drop (by omega))
  case writer =>
    rw [henc.frame, if_neg r.succ_ne_zero, hnext, add_ofNat_add]
  case phases =>
    have hsize : w * h < 2 ^ 32 := hapart.lt (by omega)
    rcases Nat.lt_succ_iff_lt_or_eq.1 hk with hold | rfl
    · have hbefore : k * w + w ≤ r * w := by
        calc k * w + w = (k + 1) * w := by ring
          _ ≤ r * w := Nat.mul_le_mul_right w hold
      rw [henc.stored.leValue fun c hc hnew => ?_, hr.phases hapart k q hold hq]
      rw [add_ofNat_add] at hc
      exact apart_of_offsets dst (i := k * w + 16 * q) (j := r * w) (by omega) (by omega) c hc hnew
    · have hrowApart : Apart (dst + BitVec.ofNat 32 (k * w)) w (src + BitVec.ofNat 32 (2 * k * w)) (2 * w) :=
        (hapart.drop_left (by omega)).drop_right (by omega)
      rw [henc.phases hrowApart q hq, State.phaseCodes, hr.stored.sampleCodes (by rw [hr.frame])
        (Nat.mod_lt _ (by decide))]
      · rfl
      · intro c hc hnew
        rw [blockAddr, add_ofNat_add] at hc
        exact hapart c (hnew.mono (by omega)) (hc.drop (by omega))

theorem encodeImage_of_settled {dst src : Word} {w h : Nat} {s : State} (hwlt : w < 2 ^ 32) (hmul : w % 32 = 0)
    (hwf : s.mem.wf = true) (hw : s.writesLeft = none) (hs : Settled s src (2 * w * h)) (ha : Admitted s dst (w * h)) :
    ∃ t, encodeImage dst src w h s = .ok () t ∧ EncodedRows dst src w h h s t := by
  have hloop := forRange_ok (P := fun r => EncodedRows dst src w h r s) (last := h)
    (fun r t hr ht => ht.step hr hwlt hmul hw hs ha) h 0 s (Nat.zero_add h).le
    ⟨rfl, hwf, .of_same rfl rfl, rfl, fun _ _ _ hk => absurd hk (Nat.not_lt_zero _)⟩
  simpa only [Nat.zero_add, encodeImage] using hloop

/-! ### The commands (45_encoder.md R204, R205) -/

theorem commandWork_dcErow {s : State} (hv : s.tcValid = true) (hpos : s.gWidth.toNat ≠ 0)
    (hmul : s.gWidth.toNat % 32 = 0)
    (ra rb : Reg) : commandWork (.dcErow ra rb) s = encodeRow (s.getX ra) (s.getX rb) s.gWidth.toNat s := by
  rw [commandWork, requireTable_of_valid hv, Res.bind_ok, checkWidth_of_legal hpos hmul, Res.bind_ok]

theorem commandWork_dcEnc {s : State} (hv : s.tcValid = true) (hpos : s.gWidth.toNat ≠ 0)
    (hmul : s.gWidth.toNat % 32 = 0)
    (ra rb : Reg) : commandWork (.dcEnc ra rb) s =
      encodeImage (s.getX ra) (s.getX rb) s.gWidth.toNat s.gHeight.toNat s := by
  rw [commandWork, requireTable_of_valid hv, Res.bind_ok, checkWidth_of_legal hpos hmul, Res.bind_ok]

/-- A row alone, as a command. -/
theorem erow_encodes (ra rb : Reg) (s : State) (hv : s.tcValid = true) (hstore : StoreInv s)
    (hpos : s.gWidth.toNat ≠ 0) (hmul : s.gWidth.toNat % 32 = 0) (hs : Settled s (s.getX rb) (2 * s.gWidth.toNat))
    (ha : Admitted s (s.getX ra) s.gWidth.toNat) :
    ∃ t, exec (.dcErow ra rb) s = .next t ∧
      Completed { bw := true, bytes := [(s.getX ra, s.gWidth.toNat)] } s t ∧
      t.bw = ⟨s.getX ra + BitVec.ofNat 32 s.gWidth.toNat, 0, 0, 0⟩ ∧
      (Apart (s.getX ra) s.gWidth.toNat (s.getX rb) (2 * s.gWidth.toNat) → ∀ b (j : Phase), b < s.gWidth.toNat / 32 →
        t.leValue 16 (s.getX ra + BitVec.ofNat 32 (32 * b + 16 * j.val)) =
          phaseValue (s.sampleCodes (s.getX rb + BitVec.ofNat 32 (64 * b)) j.val)) := by
  obtain ⟨t, ht, henc⟩ := encodeRow_of_settled s.gWidth.isLt hmul hstore.canonical hstore.settled hs ha
  have hbw : t.bw = ⟨s.getX ra + BitVec.ofNat 32 s.gWidth.toNat, 0, 0, 0⟩ := by rw [henc.frame]
  refine ⟨_, exec_of_work_ok (by simp) ((commandWork_dcErow hv hpos hmul ra rb).trans ht), ?_, hbw,
    fun hapart b j hb => ?_⟩
  · refine completed_of_storedIn (by rw [henc.frame]) (henc.stored.mono fun a ha => ⟨_, List.mem_singleton_self _, ha⟩)
      (fun _ => by rw [henc.frame]) (fun _ => by rw [henc.frame]) nofun
  · have hphase := henc.phases hapart (2 * b + j.val) (by omega)
    rw [State.phaseCodes, show (2 * b + j.val) / 2 = b by omega, show (2 * b + j.val) % 2 = j.val by omega] at hphase
    rw [State.leValue_congr (s := t) (by rfl), show 32 * b + 16 * j.val = 16 * (2 * b + j.val) by ring, hphase]
    rfl

/-- An image alone, as a command. -/
theorem enc_encodes (ra rb : Reg) (s : State) (hv : s.tcValid = true) (hstore : StoreInv s)
    (hpos : s.gWidth.toNat ≠ 0) (hmul : s.gWidth.toNat % 32 = 0)
    (hs : Settled s (s.getX rb) (2 * s.gWidth.toNat * s.gHeight.toNat))
    (ha : Admitted s (s.getX ra) (s.gWidth.toNat * s.gHeight.toNat)) :
    ∃ t, exec (.dcEnc ra rb) s = .next t ∧
      Completed { bw := true, bytes := [(s.getX ra, s.gWidth.toNat * s.gHeight.toNat)] } s t ∧
      (s.gHeight.toNat = 0 → t.bw = s.bw) ∧
      (0 < s.gHeight.toNat → t.bw = ⟨s.getX ra + BitVec.ofNat 32 (s.gWidth.toNat * s.gHeight.toNat), 0, 0, 0⟩) ∧
      (Apart (s.getX ra) (s.gWidth.toNat * s.gHeight.toNat) (s.getX rb) (2 * s.gWidth.toNat * s.gHeight.toNat) →
        ∀ r b (j : Phase), r < s.gHeight.toNat → b < s.gWidth.toNat / 32 →
          t.leValue 16 (s.getX ra + BitVec.ofNat 32 (r * s.gWidth.toNat + 32 * b + 16 * j.val)) =
            phaseValue (s.sampleCodes (s.getX rb + BitVec.ofNat 32 (2 * r * s.gWidth.toNat + 64 * b)) j.val)) := by
  obtain ⟨t, ht, henc⟩ := encodeImage_of_settled s.gWidth.isLt hmul hstore.canonical hstore.settled hs ha
  refine ⟨_, exec_of_work_ok (by simp) ((commandWork_dcEnc hv hpos hmul ra rb).trans ht), ?_,
    fun hnone => henc.writer.trans (if_pos hnone), fun hsome => henc.writer.trans (if_neg hsome.ne'),
    fun hapart r b j hr hb => ?_⟩
  · refine completed_of_storedIn (by rw [henc.frame]) (henc.stored.mono fun a ha => ⟨_, List.mem_singleton_self _, ha⟩)
      (fun _ => by rw [henc.frame]) (fun _ => by rw [henc.frame]) nofun
  · have hphase := henc.phases hapart r (2 * b + j.val) hr (by omega)
    rw [State.phaseCodes, show (2 * b + j.val) / 2 = b by omega, show (2 * b + j.val) % 2 = j.val by omega, blockAddr,
      add_ofNat_add, add_ofNat_add] at hphase
    rw [State.leValue_congr (s := t) (by rfl),
      show r * s.gWidth.toNat + 32 * b + 16 * j.val = r * s.gWidth.toNat + 16 * (2 * b + j.val) by ring, hphase]

end Sys2Proof.Machine
end


section
/-!
SUPPORT for the statements that compare two runs of the codec: `EndsAlike`, results that end the same way in related
states, or of which the left one is stuck and the right one has gone past it; and `Relates`, what a relation of states
needs so that every primitive of the codec, run from related states, ends alike.
-/

namespace Sys2Proof.Machine

/-! ### Results of two runs -/

/-- Two results end the same way in states related by R; or the left one is stuck where the right one goes on, and the
state the right one leaves is past the left one's by E. -/
inductive EndsAlike {α : Type} (R E : State → State → Prop) : Res α → Res α → Prop
  | ok {s t : State} (a : α) (h : R s t) : EndsAlike R E (.ok a s) (.ok a t)
  | raise {s t : State} (c : FaultCode) (info : Word) (h : R s t) : EndsAlike R E (.raise c info s) (.raise c info t)
  | stuck {s t : State} (h : R s t) : EndsAlike R E (.stuck s) (.stuck t)
  | past {s : State} {q : Res α} (h : E s q.final) : EndsAlike R E (.stuck s) q

section relations
variable {R E : State → State → Prop}

theorem EndsAlike.bind {α β : Type} {r q : Res α} {f g : α → State → Res β} (h : EndsAlike R E r q)
    (hf : ∀ a {s t}, R s t → EndsAlike R E (f a s) (g a t)) (hE : ∀ a {s t}, E s t → E s (g a t).final) :
    EndsAlike R E (r.bind f) (q.bind g) := by
  cases h with
  | ok a h => exact hf a h
  | raise c info h => exact .raise c info h
  | stuck h => exact .stuck h
  | past h => exact .past (Res.final_bind_of h fun a _ _ ht => hE a ht)

/-- A loop whose bodies end alike. -/
theorem EndsAlike.loop {body : Nat → State → Res Unit} {s t : State}
    (hb : ∀ i {s t}, R s t → EndsAlike R E (body i s) (body i t))
    (hE : ∀ i {s t}, E s t → E s (body i t).final) (h : R s t) (n i : Nat) :
    EndsAlike R E (forRange body n i s) (forRange body n i t) := by
  induction n generalizing i s t with
  | zero => exact .ok _ h
  | succ n ih =>
    exact (hb i h).bind (fun _ _ _ huv => ih huv (i + 1)) fun _ u v huv =>
      forRange_final (fun k w hw => hE k hw) n (i + 1) v huv

/-- A loop over the phases of blocks. -/
def forBlocks (body : Nat → Nat → State → Res Unit) (n : Nat) (s : State) : Res Unit :=
  forRange (fun b => forRange (body b) 2 0) n 0 s

theorem forBlocks_final {P : State → Prop} {body : Nat → Nat → State → Res Unit}
    (hb : ∀ b j s, P s → P (body b j s).final) (n : Nat) {s : State} (h : P s) : P (forBlocks body n s).final :=
  forRange_final (fun b u hu => forRange_final (hb b) 2 0 u hu) n 0 s h

theorem EndsAlike.blocks {body : Nat → Nat → State → Res Unit} {s t : State}
    (hb : ∀ b j {s t}, R s t → EndsAlike R E (body b j s) (body b j t))
    (hE : ∀ b j {s t}, E s t → E s (body b j t).final) (h : R s t) (n : Nat) :
    EndsAlike R E (forBlocks body n s) (forBlocks body n t) :=
  EndsAlike.loop (fun b _ _ hst => EndsAlike.loop (hb b) (hE b) hst 2 0)
    (fun b _ _ hst => forRange_final (fun j _ hu => hE b j hu) 2 0 _ hst) h n 0

theorem decodeRow_eq (dst src : Word) (w : Nat) (s : State) :
    decodeRow dst src w s = (peek 16 (s.openReader src (BitVec.ofNat 32 w))).bind fun seed t =>
      forBlocks (fun b j => decodePhase (blockAddr dst b) j) (w / 32) { t with rng := seed } := rfl

theorem encodeRow_eq (dst src : Word) (w : Nat) (s : State) :
    encodeRow dst src w s =
      (forBlocks (fun b j => encodePhase (blockAddr src b) j) (w / 32) (s.openWriter dst (BitVec.ofNat 32 w))).bind
        fun _ t => (finish t).bind fun _ u => .ok () u := rfl

theorem loadByte_raced {s : State} {a : Word} {v : Byte} {vs : List Byte}
    (h : hostValues a (s.mem.read a.toNat) s.past = v :: vs) :
    s.loadByte a = (s.draw (ownValue a (s.mem.read a.toNat) s.past) (v :: vs), s.drawn) := by
  rw [State.loadByte, h]

/-- What a read of one byte answers depends on memory, the record of its writes and the count of draws. -/
theorem loadByte_congr {s t : State} (hmem : t.mem = s.mem) (hpast : t.past = s.past) (hdraws : t.draws = s.draws)
    (a : Word) : t.loadByte a = ((s.loadByte a).1, { t with draws := (s.loadByte a).2.draws }) := by
  have hvalues : hostValues a (t.mem.read a.toNat) t.past = hostValues a (s.mem.read a.toNat) s.past := by
    rw [hmem, hpast]
  cases hv : hostValues a (s.mem.read a.toNat) s.past with
  | nil =>
    rw [State.loadByte_eq hv, State.loadByte_eq (hvalues.trans hv)]
    exact Prod.ext (congrArg (Memory.read · a.toNat) hmem) (by rw [← hdraws])
  | cons v vs =>
    rw [loadByte_raced hv, loadByte_raced (hvalues.trans hv)]
    refine Prod.ext ?_ ?_
    · simp only [State.draw, hmem, hpast, hdraws]
    · simp only [State.drawn, hdraws]

/-- Reads from states alike in memory, the record of its writes, the draws and the platform end alike. -/
theorem memRead_alike (hmem : ∀ {s t}, R s t → t.mem = s.mem) (hpast : ∀ {s t}, R s t → t.past = s.past)
    (hdraws : ∀ {s t}, R s t → t.draws = s.draws) (hholes : ∀ {s t}, R s t → t.holes = s.holes)
    (hset : ∀ {s t} d, R s t → R { s with draws := d } { t with draws := d }) {s t : State} (h : R s t) (a : Word)
    (n : Nat) : EndsAlike R E (memRead a n s) (memRead a n t) := by
  induction n generalizing a s t with
  | zero => exact .ok 0 h
  | succ n ih =>
    have hs : (s.loadByte a).2 = { s with draws := (s.loadByte a).2.draws } := s.loadByte_same a
    have hnext := hset (s.loadByte a).2.draws h
    rw [← hs] at hnext
    have hadm : t.admits a = s.admits a := by rw [State.admits, State.admits, hholes h]
    rw [memRead, memRead, loadByte_congr (hmem h) (hpast h) (hdraws h), hadm]
    split
    · exact (ih hnext (a + 1)).bind (fun high _ _ h' => .ok ((s.loadByte a).1.toNat + 256 * high) h') fun _ _ _ h' => h'
    · exact .stuck h

/-- What R and E need so that the codec's primitives end alike: related states agree in the units and the table, setting
the units alike relates them again, and reads and stores of memory end alike. -/
structure Relates (R E : State → State → Prop) : Prop where
  rng : ∀ {s t}, R s t → t.rng = s.rng
  br : ∀ {s t}, R s t → t.br = s.br
  bw : ∀ {s t}, R s t → t.bw = s.bw
  tc : ∀ {s t}, R s t → t.tc = s.tc
  units : ∀ {s t} rng br bw, R s t → R { s with rng := rng, br := br, bw := bw }
    { t with rng := rng, br := br, bw := bw }
  load : ∀ {s t} a n, R s t → EndsAlike R E (memRead a n s) (memRead a n t)
  store : ∀ {s t} n a v, R s t → EndsAlike R E (memWrite n a v s) (memWrite n a v t)
  pastUnits : ∀ {s t : State} x rng br bw, E s t → E s { t with x := x, rng := rng, br := br, bw := bw }
  pastLoad : ∀ {s t} a n, E s t → E s (memRead a n t).final
  pastStore : ∀ {s t} n a v, E s t → E s (memWrite n a v t).final

namespace Relates
variable {s t : State} (hR : Relates R E)
include hR

/-- What is past a state stays past it under every primitive. -/
theorem keeps (s : State) : PrimitivesKeep (E s) :=
  primitivesKeep_of_memory hR.pastUnits hR.pastLoad hR.pastStore

theorem setRng (h : R s t) (v : Word) : R { s with rng := v } { t with rng := v } := by
  have hset := hR.units v s.br s.bw h
  rwa [show t = { t with br := s.br, bw := s.bw } by rw [← hR.br h, ← hR.bw h]]

theorem setReader (h : R s t) (r : BitReader) : R { s with br := r } { t with br := r } := by
  have hset := hR.units s.rng r s.bw h
  rwa [show t = { t with rng := s.rng, bw := s.bw } by rw [← hR.rng h, ← hR.bw h]]

theorem setWriter (h : R s t) (w : BitWriter) : R { s with bw := w } { t with bw := w } := by
  have hset := hR.units s.rng s.br w h
  rwa [show t = { t with rng := s.rng, br := s.br } by rw [← hR.rng h, ← hR.br h]]

/-! ### The reader -/

theorem refill (h : R s t) : EndsAlike R E (refill s) (refill t) := by
  rw [Machine.refill, Machine.refill, hR.br h]
  split
  · exact .raise _ _ h
  · refine (hR.load _ _ h).bind (fun w u v huv => ?_) fun w u v huv => hR.pastUnits v.x v.rng _ v.bw huv
    rw [hR.br huv]
    exact .ok _ (hR.setReader huv _)

theorem peek (h : R s t) (n : Nat) : EndsAlike R E (peek n s) (peek n t) := by
  rw [Machine.peek, Machine.peek, hR.br h]
  refine EndsAlike.bind ?_ (fun _ u v huv => ?_) fun _ _ _ huv => huv
  · split
    · exact hR.refill h
    · exact .ok _ h
  · rw [hR.br huv]
    exact .ok _ huv

theorem consume (h : R s t) (n : Nat) : EndsAlike R E (consume n s) (consume n t) := by
  rw [Machine.consume, Machine.consume, hR.br h]
  split
  · exact .raise _ _ h
  · exact .ok _ (hR.setReader h _)

theorem getBits (h : R s t) {n : Nat} (hn : n ≤ 32) : EndsAlike R E (getBits n s) (getBits n t) := by
  unfold Machine.getBits
  split
  · exact .ok _ h
  · exact (hR.peek h n).bind
      (fun v _ _ huv => (hR.consume huv n).bind (fun _ _ _ h' => .ok v h') fun _ _ _ h' => h')
      fun _ u _ huv => Res.final_bind_of ((hR.keeps u).consumed hn huv) fun _ _ _ h' => h'

/-! ### The writer -/

theorem pastEmit (m acc : Nat) (h : E s t) : E s (Machine.emitBytes m acc t).final := by
  induction m generalizing acc t with
  | zero => exact h
  | succ m ih =>
    exact Res.final_bind_of (hR.pastStore _ _ _ h) fun _ v _ hv => ih _ (hR.pastUnits v.x v.rng v.br _ hv)

theorem emitBytes (m acc : Nat) (h : R s t) : EndsAlike R E (emitBytes m acc s) (emitBytes m acc t) := by
  induction m generalizing acc s t with
  | zero => exact .ok _ h
  | succ m ih =>
    rw [Machine.emitBytes, Machine.emitBytes, hR.bw h]
    refine (hR.store _ _ _ h).bind (fun _ u v huv => ?_) fun _ u v huv => ?_
    · rw [hR.bw huv]
      exact ih _ (hR.setWriter huv _)
    · exact hR.pastEmit m _ (hR.pastUnits v.x v.rng v.br _ huv)

theorem push (h : R s t) (v n : Nat) : EndsAlike R E (push v n s) (push v n t) := by
  rw [Machine.push, Machine.push, hR.bw h]
  split
  · exact .raise _ _ h
  · refine (hR.emitBytes _ _ h).bind (fun _ u w huw => ?_) fun _ u w huw => hR.pastUnits w.x w.rng w.br _ huw
    rw [hR.bw huw]
    exact .ok _ (hR.setWriter huw _)

theorem pushAll (h : R s t) (fs : List (Nat × Nat)) : EndsAlike R E (pushAll fs s) (pushAll fs t) := by
  induction fs generalizing s t with
  | nil => exact .ok _ h
  | cons f fs ih =>
    exact (hR.push h f.1 f.2).bind (fun _ _ _ huv => ih huv) fun _ u _ huv => pushAll_keeps (hR.keeps u) fs huv

theorem finish (h : R s t) : EndsAlike R E (finish s) (finish t) := by
  rw [Machine.finish, Machine.finish, hR.bw h]
  split
  · exact .raise _ _ h
  · exact .ok _ h

/-! ### Phases, rows and images -/

theorem dither (h : R s t) (code : Nat) : EndsAlike R E (dither code s) (dither code t) := by
  have hentry : t.tcEntry code = s.tcEntry code := by rw [State.tcEntry, State.tcEntry, hR.tc h]
  rw [Machine.dither, Machine.dither, hR.rng h, hentry]
  exact .ok _ (hR.setRng h _)

theorem elementCode (h : R s t) (hd : PhaseHead) (i : Nat) :
    EndsAlike R E (elementCode hd i s) (elementCode hd i t) := by
  unfold Machine.elementCode
  split
  · exact .ok _ h
  · split
    · exact .ok _ h
    · exact (hR.getBits h (by decide)).bind (fun _ _ _ huv => .ok _ huv) fun _ _ _ huv => huv

theorem decodeElement (h : R s t) (dst : Word) (j : Nat) (hd : PhaseHead) (i : Nat) :
    EndsAlike R E (decodeElement dst j hd i s) (decodeElement dst j hd i t) :=
  (hR.elementCode h hd i).bind
    (fun v _ _ huw => (hR.dither huw (v <<< 1)).bind (fun p _ _ h' => hR.store 2 _ p.toNat h')
      fun p _ _ h' => hR.pastStore 2 _ p.toNat h')
    fun _ _ w huw => hR.pastStore _ _ _ (hR.pastUnits w.x _ w.br w.bw huw)

theorem pastHeader (mx mn : Word) (h : E s t) :
    E s (Res.final (if mx.toNat < mn.toNat then .raise .phaseOrder ((mx <<< 16) ||| mn) t
      else (Machine.getBits 4 t).bind fun imax s => (Machine.getBits 4 s).bind fun imin s =>
        .ok (⟨mx.toNat, mn.toNat, imax.toNat, imin.toNat⟩ : PhaseHead) s)) := by
  split
  · exact h
  · exact Res.final_bind_of (getBits_keeps (hR.keeps s) (by decide) h) fun _ _ _ hu =>
      Res.final_bind_of (getBits_keeps (hR.keeps s) (by decide) hu) fun _ _ _ hv => hv

theorem readHead (h : R s t) : EndsAlike R E (readHead s) (readHead t) := by
  refine (hR.getBits h (by decide)).bind (fun mx u v huv => ?_) fun mx u v huv => ?_
  · refine (hR.getBits huv (by decide)).bind (fun mn u v huv => ?_) fun mn u v huv => ?_
    · split
      · exact .raise _ _ huv
      · exact (hR.getBits huv (by decide)).bind
          (fun _ _ _ h' => (hR.getBits h' (by decide)).bind (fun _ _ _ h'' => .ok _ h'') fun _ _ _ h'' => h'')
          fun _ u _ h' => Res.final_bind_of (getBits_keeps (hR.keeps u) (by decide) h') fun _ _ _ h'' => h''
    · exact hR.pastHeader mx mn huv
  · exact Res.final_bind_of (getBits_keeps (hR.keeps u) (by decide) huv) fun mn v _ hv => hR.pastHeader mx mn hv

theorem decodePhase (h : R s t) (dst : Word) (j : Nat) : EndsAlike R E (decodePhase dst j s) (decodePhase dst j t) :=
  (hR.readHead h).bind
    (fun hd _ _ huv => EndsAlike.loop (fun i _ _ h' => hR.decodeElement h' dst j hd i)
      (fun i u _ h' => decodeElement_keeps (hR.keeps u) dst j hd i h') huv 16 0)
    fun hd u v huv => forRange_final (fun i _ h' => decodeElement_keeps (hR.keeps u) dst j hd i h') 16 0 v huv

theorem decodeRow (h : R s t) (dst src : Word) (w : Nat) :
    EndsAlike R E (decodeRow dst src w s) (decodeRow dst src w t) := by
  have hopen : R (s.openReader src (BitVec.ofNat 32 w)) (t.openReader src (BitVec.ofNat 32 w)) := hR.setReader h _
  rw [decodeRow_eq, decodeRow_eq]
  refine (hR.peek hopen 16).bind (fun seed u v huv => ?_) fun seed u v huv => ?_
  · exact EndsAlike.blocks (fun b j _ _ h' => hR.decodePhase h' (blockAddr dst b) j)
      (fun b j u _ h' => decodePhase_keeps (hR.keeps u) (blockAddr dst b) j h') (hR.setRng huv seed) (w / 32)
  · exact forBlocks_final (fun b j _ h' => decodePhase_keeps (hR.keeps u) (blockAddr dst b) j h') (w / 32)
      (hR.pastUnits v.x seed v.br v.bw huv)

theorem decodeImage (h : R s t) (dst src : Word) (w stride height : Nat) :
    EndsAlike R E (decodeImage dst src w stride height s) (decodeImage dst src w stride height t) := by
  unfold Machine.decodeImage
  exact EndsAlike.loop
    (fun r _ _ h' => hR.decodeRow h' (dst + BitVec.ofNat 32 (2 * r * w)) (src + BitVec.ofNat 32 (r * stride)) w)
    (fun r u _ h' => decodeRow_keeps (hR.keeps u) (dst + BitVec.ofNat 32 (2 * r * w))
      (src + BitVec.ofNat 32 (r * stride)) w h')
    h height 0

theorem readCodes (h : R s t) (src : Word) (j n i : Nat) :
    EndsAlike R E (readCodes src j n i s) (readCodes src j n i t) := by
  induction n generalizing i s t with
  | zero => exact .ok _ h
  | succ n ih =>
    refine (hR.load _ _ h).bind (fun v _ _ huv => ?_) fun v u w huw => ?_
    · refine (ih huv (i + 1)).bind (fun _ _ _ h' => ?_) fun _ _ _ h' => h'
      rw [hR.tc h']
      exact .ok _ h'
    · exact Res.final_bind_of (readCodes_keeps (hR.keeps u) src j n (i + 1) huw) fun _ _ _ h' => h'

theorem encodePhase (h : R s t) (src : Word) (j : Nat) : EndsAlike R E (encodePhase src j s) (encodePhase src j t) :=
  (hR.readCodes h src j 16 0).bind (fun _ _ _ huv => hR.pushAll huv _) fun _ u _ huv => pushAll_keeps (hR.keeps u) _ huv

theorem encodeRow (h : R s t) (dst src : Word) (w : Nat) :
    EndsAlike R E (encodeRow dst src w s) (encodeRow dst src w t) := by
  have hopen : R (s.openWriter dst (BitVec.ofNat 32 w)) (t.openWriter dst (BitVec.ofNat 32 w)) := hR.setWriter h _
  rw [encodeRow_eq, encodeRow_eq]
  refine (EndsAlike.blocks (fun b j _ _ h' => hR.encodePhase h' (blockAddr src b) j)
    (fun b j u _ h' => encodePhase_keeps (hR.keeps u) (blockAddr src b) j h') hopen (w / 32)).bind
    (fun _ _ _ huv => ?_) fun _ _ _ huv => ?_
  · exact (hR.finish huv).bind (fun _ _ _ h' => .ok _ h') fun _ _ _ h' => h'
  · exact Res.final_bind_of (finish_keeps huv) fun _ _ _ h' => h'

theorem encodeImage (h : R s t) (dst src : Word) (w height : Nat) :
    EndsAlike R E (encodeImage dst src w height s) (encodeImage dst src w height t) := by
  unfold Machine.encodeImage
  exact EndsAlike.loop
    (fun r _ _ h' => hR.encodeRow h' (dst + BitVec.ofNat 32 (r * w)) (src + BitVec.ofNat 32 (2 * r * w)) w)
    (fun r u _ h' => encodeRow_keeps (hR.keeps u) (dst + BitVec.ofNat 32 (r * w))
      (src + BitVec.ofNat 32 (2 * r * w)) w h')
    h height 0

end Relates
end relations

end Sys2Proof.Machine
end


section
/-!
SUPPORT and the statements about encoded rows and images command by command (45_encoder.md): DC.EROW (ErowEncodesRow)
and DC.ENC (EncEncodesImage).  Before them stand states that differ only in the general registers, CP and CMD_COUNT,
from which the codec runs alike, and commands given in turn against the loop of one command that does the same.
-/

namespace Sys2Proof.Machine

/-! ### States that differ in what the codec does not read -/

/-- Alike but for the general registers, CP and CMD_COUNT. -/
def Elsewhere (s t : State) : Prop := ∃ x cp n, t = { s with x := x, cp := cp, cmdCount := n }

theorem Elsewhere.refl (s : State) : Elsewhere s s := ⟨s.x, s.cp, s.cmdCount, rfl⟩

theorem Elsewhere.trans {s t u : State} (h : Elsewhere s t) (k : Elsewhere t u) : Elsewhere s u := by
  obtain ⟨x, cp, n, rfl⟩ := h
  obtain ⟨x', cp', n', rfl⟩ := k
  exact ⟨x', cp', n', rfl⟩

theorem Elsewhere.setX (s : State) (r : Reg) (v : Word) : Elsewhere s (s.setX r v) := ⟨_, s.cp, s.cmdCount, rfl⟩

theorem Elsewhere.retire (s : State) : Elsewhere s s.retire := ⟨s.x, _, _, rfl⟩

/-- No state is past another: neither run is ever cut. -/
def NeverPast (_ _ : State) : Prop := False

theorem writeByte_elsewhere (s : State) (a : Word) (b : Byte) (x : Vector Word 16) (cp n : Word) :
    State.writeByte { s with x := x, cp := cp, cmdCount := n } a b =
      (s.writeByte a b).map fun u => { u with x := x, cp := cp, cmdCount := n } := by
  unfold State.writeByte
  show (if (s.admits a && s.writesLeft != some 0) = true then _ else _) = _
  split <;> rfl

theorem memWrite_elsewhere {s t : State} (h : Elsewhere s t) (n : Nat) (a : Word) (v : Nat) :
    EndsAlike Elsewhere NeverPast (memWrite n a v s) (memWrite n a v t) := by
  induction n generalizing a v s t with
  | zero => exact .ok () h
  | succ n ih =>
    obtain ⟨x, cp, m, rfl⟩ := h
    rw [memWrite, memWrite, writeByte_elsewhere s a _ x cp m]
    cases s.writeByte a (BitVec.ofNat 8 v) with
    | none => exact .stuck ⟨x, cp, m, rfl⟩
    | some u => exact ih ⟨x, cp, m, rfl⟩ (a + 1) (v / 256)

theorem relates_elsewhere : Relates Elsewhere NeverPast where
  rng := by rintro s _ ⟨x, cp, n, rfl⟩; rfl
  br := by rintro s _ ⟨x, cp, n, rfl⟩; rfl
  bw := by rintro s _ ⟨x, cp, n, rfl⟩; rfl
  tc := by rintro s _ ⟨x, cp, n, rfl⟩; rfl
  units := by rintro s _ rng br bw ⟨x, cp, n, rfl⟩; exact ⟨x, cp, n, rfl⟩
  load a n h := memRead_alike (by rintro s _ ⟨x, cp, n, rfl⟩; rfl) (by rintro s _ ⟨x, cp, n, rfl⟩; rfl)
    (by rintro s _ ⟨x, cp, n, rfl⟩; rfl) (by rintro s _ ⟨x, cp, n, rfl⟩; rfl)
    (by rintro s _ d ⟨x, cp, n, rfl⟩; exact ⟨x, cp, n, rfl⟩) h a n
  store n a v h := memWrite_elsewhere h n a v
  pastUnits _ _ _ _ h := h
  pastLoad _ _ h := h
  pastStore _ _ _ h := h

/-! ### Commands in turn (70_reset_and_hazards.md R253) -/

/-- One piece of work for each element of a list, in order, up to the first that does not complete. -/
def inSequence {α : Type} (f : α → State → Res Unit) : List α → State → Res Unit
  | [], s => .ok () s
  | a :: rest, s => (f a s).bind fun _ t => inSequence f rest t

theorem inSequence_append {α : Type} (f : α → State → Res Unit) (l k : List α) (s : State) :
    inSequence f (l ++ k) s = (inSequence f l s).bind fun _ t => inSequence f k t := by
  induction l generalizing s with
  | nil => rfl
  | cons a l ih =>
    rw [List.cons_append, inSequence, inSequence, Res.bind_assoc]
    simp only [ih]

theorem forRange_eq_inSequence (body : Nat → State → Res Unit) (n i : Nat) (s : State) :
    forRange body n i s = inSequence body (List.range' i n) s := by
  induction n generalizing i s with
  | zero => rfl
  | succ n ih =>
    rw [forRange_succ, List.range'_succ, inSequence]
    simp only [ih]

theorem inSequence_map {α β : Type} (f : β → State → Res Unit) (g : α → β) (l : List α) (s : State) :
    inSequence f (l.map g) s = inSequence (fun a => f (g a)) l s := by
  induction l generalizing s with
  | nil => rfl
  | cons a l ih =>
    rw [List.map_cons, inSequence, inSequence]
    simp only [ih]

theorem inSequence_flatMap {α β : Type} (f : β → State → Res Unit) (g : α → List β) (l : List α) (s : State) :
    inSequence f (l.flatMap g) s = inSequence (fun a => inSequence f (g a)) l s := by
  induction l generalizing s with
  | nil => rfl
  | cons a l ih =>
    rw [List.flatMap_cons, inSequence_append, inSequence]
    simp only [ih]

/-- The phases of a row in order are the loop over its blocks. -/
theorem forBlocks_eq_inSequence (f : Word × Phase → State → Res Unit) (body : Nat → Nat → State → Res Unit)
    (base : Word)
    (w : Nat) (hbody : ∀ b (j : Phase), body b j.val = f (blockAddr base b, j)) (s : State) :
    forBlocks body (w / 32) s = inSequence f (rowPhases base w) s := by
  have hblock (b : Nat) : (fun t => forRange (body b) 2 0 t) =
      inSequence f [(blockAddr base b, 0), (blockAddr base b, 1)] := by
    funext t
    rw [forRange_succ, show body b 0 = f (blockAddr base b, 0) from hbody b 0, inSequence]
    congr 1
    funext _ u
    rw [forRange_succ, show body b (0 + 1) = f (blockAddr base b, 1) from hbody b 1, inSequence]
    rfl
  rw [forBlocks, forRange_eq_inSequence, rowPhases, inSequence_flatMap, ← List.range_eq_range']
  exact congrArg (fun g => inSequence g (List.range (w / 32)) s) (funext hblock)

/-- The control registers, the curve and the geometry are such that the row and image commands run. -/
structure Running (w : Nat) (s : State) : Prop where
  busy : s.busy = true
  fault : s.fault = false
  hung : s.hung = false
  valid : s.tcValid = true
  width : s.gWidth.toNat = w

theorem Running.elsewhere {w : Nat} {s t : State} (h : Running w s) (k : Elsewhere s t) : Running w t := by
  obtain ⟨x, cp, n, rfl⟩ := k
  exact ⟨h.busy, h.fault, h.hung, h.valid, h.width⟩

theorem Running.decode {w : Nat} {s t : State} (h : Running w s) (k : SameButDecode s t) : Running w t := by
  rw [k]
  exact ⟨h.busy, h.fault, h.hung, h.valid, h.width⟩

theorem Running.encode {w : Nat} {s t : State} (h : Running w s) (k : SameButEncode s t) : Running w t := by
  rw [k]
  exact ⟨h.busy, h.fault, h.hung, h.valid, h.width⟩

theorem Elsewhere.sameCodec {s t : State} (h : Elsewhere s t) : SameCodec t s := by
  obtain ⟨x, cp, n, rfl⟩ := h
  exact ⟨rfl, rfl, rfl, rfl, rfl, rfl, rfl, rfl, rfl, rfl, rfl⟩

theorem SameCodec.retire {s t : State} (h : SameCodec s t) : SameCodec s t.retire :=
  ⟨h.rng, h.br, h.bw, h.mem, h.past, h.draws, h.busy, h.fault, h.faultCode, h.faultInfo, h.hung⟩

/-- Commands in turn leave what one command with the same work in sequence leaves. -/
theorem inTurn_sameCodec {α : Type} {F : α → State → Host.Outcome State Fault Refusal} {f : α → State → Res Unit}
    {w : Nat}
    (hF : ∀ a t, Running w t → ∃ u, Elsewhere t u ∧ F a t = conclude (f a u))
    (hf : ∀ a {s t}, Elsewhere s t → EndsAlike Elsewhere NeverPast (f a s) (f a t))
    (hrun : ∀ a s, Running w s → Running w (f a s).final) (l : List α) {s t : State} (h : Elsewhere s t)
    (hs : Running w s) :
    ∃ u, conclude (inSequence f l s) = .next u ∧ SameCodec (inTurn F l t) u := by
  induction l generalizing s t with
  | nil => exact ⟨s.retire, rfl, h.sameCodec.retire⟩
  | cons a l ih =>
    obtain ⟨v, hv, hFa⟩ := hF a t (hs.elsewhere h)
    have halike := hf a (h.trans hv)
    have hkeep := hrun a s hs
    rw [inSequence, inTurn, hFa]
    generalize f a s = r at halike hkeep
    generalize f a v = q at halike
    cases halike with
    | @ok s' t' _ h' =>
      have hnext := hkeep.elsewhere (h'.trans (.retire t'))
      have hgo : ¬(t'.retire.fault || t'.retire.hung) = true := by rw [hnext.fault, hnext.hung]; decide
      show ∃ u, conclude (inSequence f l s') = .next u ∧
        SameCodec (if (t'.retire.fault || t'.retire.hung) = true then t'.retire else inTurn F l t'.retire) u
      rw [if_neg hgo]
      exact ih (h'.trans (.retire t')) hkeep
    | @raise s' t' c info h' =>
      obtain ⟨x, cp, n, rfl⟩ := h'
      exact ⟨_, rfl, ⟨rfl, rfl, rfl, rfl, rfl, rfl, rfl, rfl, rfl, rfl, rfl⟩⟩
    | @stuck s' t' h' =>
      obtain ⟨x, cp, n, rfl⟩ := h'
      refine ⟨_, rfl, ?_⟩
      simp only [conclude_stuck, State.hang, show s'.fault = false from hkeep.fault, Bool.or_true, if_true]
      exact ⟨rfl, rfl, rfl, rfl, rfl, rfl, rfl, rfl, rfl, rfl, rfl⟩
    | past h' => exact h'.elim

/-! ### A row leaves nothing pending (45_encoder.md R201) -/

theorem forRange_of_ok {P : State → Prop} {body : Nat → State → Res Unit}
    (hb : ∀ i {s t}, P s → body i s = .ok () t → P t) {n i : Nat} {s t : State} (hs : P s)
    (h : forRange body n i s = .ok () t) : P t := by
  induction n generalizing i s with
  | zero =>
    cases h
    exact hs
  | succ n ih =>
    obtain ⟨_, u, hu, hrest⟩ := Res.bind_eq_ok.1 h
    exact ih (hb i hs hu) hrest

theorem forBlocks_of_ok {P : State → Prop} {body : Nat → Nat → State → Res Unit}
    (hb : ∀ b j {s t}, P s → body b j s = .ok () t → P t) {n : Nat} {s t : State} (hs : P s)
    (h : forBlocks body n s = .ok () t) : P t :=
  forRange_of_ok (fun b _ _ hu hblock => forRange_of_ok (hb b) hu hblock) hs h

theorem push_cnt {v n : Nat} {s t : State} (h : push v n s = .ok () t) :
    t.bw.cnt.toNat = (s.bw.cnt.toNat + n) % 8 := by
  unfold push at h
  split at h
  · cases h
  · obtain ⟨_, u, -, hu⟩ := Res.bind_eq_ok.1 h
    cases hu
    simp only [BitVec.toNat_ofNat, pushBytes]
    omega

theorem pushAll_cnt {fs : List (Nat × Nat)} {s t : State} (h : pushAll fs s = .ok () t) :
    t.bw.cnt.toNat = (s.bw.cnt.toNat + fieldBits fs) % 8 := by
  induction fs generalizing s with
  | nil =>
    cases h
    exact (Nat.mod_eq_of_lt (BitVec.isLt _)).symm
  | cons f fs ih =>
    obtain ⟨_, u, hu, hrest⟩ := Res.bind_eq_ok.1 h
    rw [ih hrest, push_cnt hu, fieldBits]
    omega

theorem readCodes_length {src : Word} {j n i : Nat} {codes : List Nat} {s t : State}
    (h : readCodes src j n i s = .ok codes t) : codes.length = n := by
  induction n generalizing i s codes with
  | zero =>
    cases h
    rfl
  | succ n ih =>
    obtain ⟨_, u, -, hrest⟩ := Res.bind_eq_ok.1 h
    obtain ⟨cs, v, hv, hcodes⟩ := Res.bind_eq_ok.1 hrest
    cases hcodes
    rw [List.length_cons, ih hv]

/-- A phase is whole bytes, so it leaves as many bits pending as before it. -/
theorem encodePhase_cnt {src : Word} {j : Nat} {s t : State} (h : encodePhase src j s = .ok () t) :
    t.bw.cnt.toNat = s.bw.cnt.toNat := by
  obtain ⟨codes, u, hu, hrest⟩ := Res.bind_eq_ok.1 h
  have hsame : u.bw = s.bw := by
    have := readCodes_same src j 16 0 s
    rw [hu, Res.final_ok] at this
    rw [this]
  have hcnt := s.bw.cnt.isLt
  rw [pushAll_cnt hrest, fieldBits_phaseFields (readCodes_length hu), hsame]
  omega

/-- The Finish of a row returns: a row is its window and its phases. -/
theorem encodeRow_eq_blocks (dst src : Word) (w : Nat) (s : State) :
    encodeRow dst src w s =
      forBlocks (fun b j => encodePhase (blockAddr src b) j) (w / 32) (s.openWriter dst (BitVec.ofNat 32 w)) := by
  rw [encodeRow_eq]
  cases hrow : forBlocks (fun b j => encodePhase (blockAddr src b) j) (w / 32)
      (s.openWriter dst (BitVec.ofNat 32 w)) with
  | ok _ t =>
    have hcnt : t.bw.cnt.toNat = 0 :=
      forBlocks_of_ok (P := fun u => u.bw.cnt.toNat = 0)
        (fun b j _ _ hu hphase => (encodePhase_cnt hphase).trans hu) rfl hrow
    rw [Res.bind_ok, finish_of_no_pending hcnt, Res.bind_ok]
  | raise _ _ _ => rfl
  | stuck _ => rfl

/-! ### The obligations -/

theorem encodeRow_inTurn {dst src : Word} {w : Nat} {s : State} (hs : Running w s) :
    ∃ t, conclude (encodeRow dst src w s) = .next t ∧ SameCodec (rowEncoded dst src w s) t := by
  have hturn := inTurn_sameCodec (w := w) (F := fun p u => exec (.dcEph 0 p.2) (u.setX 0 p.1))
    (f := fun (p : Word × Phase) => encodePhase p.1 p.2.val)
    (fun p t ht => ⟨t.setX 0 p.1, .setX t 0 p.1, ?_⟩)
    (fun p _ _ h => relates_elsewhere.encodePhase h p.1 p.2.val)
    (fun p t ht => ht.encode (encodePhase_same p.1 p.2.val t)) (rowPhases src w)
    (.refl (s.openWriter dst (BitVec.ofNat 32 w))) ⟨hs.busy, hs.fault, hs.hung, hs.valid, hs.width⟩
  · rw [encodeRow_eq_blocks, forBlocks_eq_inSequence (fun p => encodePhase p.1 p.2.val) _ src w fun _ _ => rfl]
    exact hturn
  · have hv : (t.setX 0 p.1).tcValid = true := ht.valid
    rw [exec_of_ne_stop (by simp), commandWork_dcEph hv, State.getX_setX_same]

/-- Settles O42: the blocks fill the window exactly, each phase 16 bytes behind the one before; and the phases of the
row are the same work as the commands in turn. -/
theorem erowEncodesRow : Obligations.ErowEncodesRow := by
  unfold Obligations.ErowEncodesRow
  refine ⟨?_, fun ra rb s hbusy hfault hhung hv hpos hmul => ?_⟩
  · rintro ra rb s w hv hstore rfl hpos hmul hs ha
    exact erow_encodes ra rb s hv hstore hpos hmul hs ha
  · rw [exec_of_ne_stop (by simp), commandWork_dcErow hv hpos hmul]
    exact encodeRow_inTurn ⟨hbusy, hfault, hhung, hv, rfl⟩

theorem encodeImage_eq_inSequence (dst src : Word) (w h : Nat) (s : State) :
    encodeImage dst src w h s = inSequence (fun p => encodeRow p.1 p.2 w) (imageRows dst src w (2 * w) h) s := by
  rw [encodeImage, forRange_eq_inSequence, imageRows, inSequence_map, ← List.range_eq_range']
  congr 1
  funext r
  rw [show 2 * r * w = r * (2 * w) by ring]

/-- Settles O43: the rows follow one another at both ends; and they are the same work as the row commands in turn. -/
theorem encEncodesImage : Obligations.EncEncodesImage := by
  unfold Obligations.EncEncodesImage
  refine ⟨?_, ?_⟩
  · rintro ra rb s w h hv hstore rfl rfl hpos hmul hs ha
    exact enc_encodes ra rb s hv hstore hpos hmul hs ha
  · rintro ra rb s w hbusy hfault hhung hv hw hpos hmul
    have hturn := inTurn_sameCodec (w := w) (F := fun p u => exec (.dcErow 0 1) ((u.setX 0 p.1).setX 1 p.2))
      (f := fun (p : Word × Word) => encodeRow p.1 p.2 w)
      (fun p t ht => ⟨_, (Elsewhere.setX t 0 p.1).trans (.setX _ 1 p.2), ?_⟩)
      (fun p _ _ h => relates_elsewhere.encodeRow h p.1 p.2 w)
      (fun p t ht => ht.encode (encodeRow_same p.1 p.2 w t))
      (imageRows (s.getX ra) (s.getX rb) w (2 * w) s.gHeight.toNat) (.refl s) ⟨hbusy, hfault, hhung, hv, hw.symm⟩
    · rw [exec_of_ne_stop (by simp), commandWork_dcEnc hv (hw ▸ hpos) (hw ▸ hmul), ← hw, encodeImage_eq_inSequence]
      exact hturn
    · have hv' : ((t.setX 0 p.1).setX 1 p.2).tcValid = true := ht.valid
      have hw' : ((t.setX 0 p.1).setX 1 p.2).gWidth.toNat = w := ht.width
      rw [exec_of_ne_stop (by simp), commandWork_dcErow hv' (hw'.symm ▸ hpos) (hw'.symm ▸ hmul), hw',
        State.getX_setX_same, State.getX_setX_other _ _ (by decide), State.getX_setX_same]

end Sys2Proof.Machine
end


section
/-!
SUPPORT and the statements about decoded rows and images (44_decoder.md): DC.DROW (DrowDecodesRow) and DC.DEC
(DecDecodesImage).  Before them stand the length of a well-formed phase, the samples of a row by number, the first p
phases of a row (`DecodedPhases`), a row (`DecodedRow`) and the first r rows of an image (`DecodedRows`).
-/

namespace Sys2Proof.Machine

/-! ### Well-formed phases (44_decoder.md R179) -/

theorem residualIndex_eq_residualCount (st i : Nat) :
    residualIndex st i = residualCount (streamHead st) (List.range i) := by
  rfl

/-- A phase with two different extremes is 128 bits. -/
theorem phaseBits_of_ne {st : Nat} (h : phaseImax st ≠ phaseImin st) : phaseBits st = 128 := by
  have hmax : phaseImax st < 16 := Nat.mod_lt _ (Nat.two_pow_pos 4)
  have hmin : phaseImin st < 16 := Nat.mod_lt _ (Nat.two_pow_pos 4)
  rw [phaseBits, residualIndex_eq_residualCount, residualCount_range (h := streamHead st) hmax hmin h]

theorem rngAfter_add (k m r : Nat) : rngAfter (k + m) r = rngAfter m (rngAfter k r) := by
  induction k generalizing r with
  | zero => rw [Nat.zero_add, rngAfter]
  | succ k ih => rw [Nat.succ_add, rngAfter, ih, rngAfter]

/-! ### The samples of a row by number (20_memory.md R83) -/

/-- The phase of a row that sample k belongs to. -/
def phaseOfSample (k : Nat) : Nat := 2 * (k / 32) + k % 2

/-- Sample k is an element of the slot range of its phase. -/
theorem sampleAt_eq_slot (dst : Word) {b j k : Nat} (hj : j < 2) (hk : phaseOfSample k = 2 * b + j) :
    sampleAt dst k = sampleAddr (blockAddr dst b) j (k % 32 / 2) := by
  unfold phaseOfSample at hk
  rw [sampleAt, sampleAddr, blockAddr, add_ofNat_add]
  congr 2
  omega

/-- A slot of a block is a sample of its row. -/
theorem slot_eq_sampleAt (dst : Word) (b j i : Nat) :
    sampleAddr (blockAddr dst b) j i = sampleAt dst (32 * b + j + 2 * i) := by
  rw [sampleAt, sampleAddr, blockAddr, add_ofNat_add]
  congr 2
  omega

theorem samples_apart (dst : Word) {k m w : Nat} (hw : 2 * w ≤ 2 ^ 32) (hk : k < w) (hm : m < w) (hne : k ≠ m) :
    Apart (sampleAt dst k) 2 (sampleAt dst m) 2 := by
  rcases Nat.lt_or_gt_of_ne hne with hlt | hgt
  · exact apart_of_offsets dst (by omega) (by omega)
  · exact (apart_of_offsets dst (by omega) (by omega)).symm

theorem InSlots.inRow {dst c : Word} {b j w : Nat} (h : InSlots (blockAddr dst b) j 16 c) (hj : j < 2)
    (hb : 32 * b + 32 ≤ w) : InRange dst (2 * w) c := by
  obtain ⟨i, hi, hc⟩ := h
  rw [slot_eq_sampleAt] at hc
  exact hc.drop (by omega)

/-! ### The phases of a row (44_decoder.md R180) -/

/-- The first p phases of the row are decoded, from the state `s` in which the reader stands before the row's bits and
RNG holds its seed. -/
structure DecodedPhases (dst : Word) (w p : Nat) (s t : State) : Prop extends Advanced (128 * p) s t where
  frame : t = { s with br := t.br, rng := t.rng, mem := t.mem, past := t.past }
  canonical : t.mem.wf = true
  rng : t.rng.toNat = rngAfter (16 * p) s.rng.toNat
  stored : StoredIn (InRange dst (2 * w)) s t
  stream : t.stream = s.stream / 2 ^ (128 * p)
  samples : ∀ k, k < w → phaseOfSample k < p → t.leValue 2 (sampleAt dst k) =
    pixelOf (s.tcEntry (2 * phaseCode (rowPhase s.stream (phaseOfSample k)) (k % 32 / 2)))
      (rngAfter (16 * phaseOfSample k + k % 32 / 2) s.rng.toNat)

/-- The step of one phase. -/
theorem DecodedPhases.step {dst : Word} {w b j : Nat} {s t : State} (h : DecodedPhases dst w (2 * b + j) s t)
    (hb : 32 * b + 32 ≤ w) (hj : j < 2) (hv : s.tcValid = true) (htable : TableInv s) (hw : s.writesLeft = none)
    (hr : Ready (8 * w) s) (hwell : RowWellFormed s.stream w) (ha : Admitted s dst (2 * w))
    (hapart : Apart dst (2 * w) s.br.ptr (4 * (s.br.rem.toNat / 4))) (hsize : 2 * w ≤ 2 ^ 32) :
    ∃ u, decodePhase (blockAddr dst b) j t = .ok () u ∧ DecodedPhases dst w (2 * b + j + 1) s u := by
  obtain ⟨hle, hne⟩ := hwell (2 * b + j) (by omega)
  have hbits : phaseBits t.stream = 128 := by
    rw [h.stream]
    exact phaseBits_of_ne hne
  have hready : Ready 128 t :=
    (hr.mono (m := 128 * (2 * b + j) + 128) (by omega)).rest h.toAdvanced
  have hslot {i : Nat} (hi : i < 16) {c : Word} (hc : InRange (sampleAddr (blockAddr dst b) j i) 2 c) :
      InRange dst (2 * w) c := InSlots.inRow ⟨i, hi, hc⟩ hj hb
  obtain ⟨u, hu, hdec⟩ := decodePhase_of_ready (dst := blockAddr dst b) h.canonical (by rw [h.stream]; exact hle)
    (hbits.symm ▸ hready) hj (by rw [h.frame]; exact hv) (by rw [h.frame]; exact hw)
    fun i hi c hc => by
      rw [h.frame]
      exact ha c (hslot hi hc)
  have htable' : TableInv t := by
    rw [h.frame]
    exact htable.congr (.of_eq rfl)
  obtain ⟨hstream, hsamples⟩ := hdec.decoded htable' fun i hi c hc hread => hapart c (hslot hi hc) (h.inRange hread)
  have hadv := h.toAdvanced.trans hdec.toAdvanced
  rw [hbits] at hadv hstream
  refine ⟨u, hu, hadv, by rw [hdec.frame, h.frame], hdec.canonical, ?rng, ?stored, ?stream, fun k hk hp => ?samples⟩
  case rng => rw [hdec.rng, h.rng, ← rngAfter_add, Nat.mul_succ]
  case stored => exact h.stored.trans (hdec.stored.mono fun c hc => hc.inRow hj hb)
  case stream => rw [hstream, h.stream, Nat.div_div_eq_div_mul, Nat.mul_succ, Nat.pow_add]
  case samples =>
    rcases Nat.lt_succ_iff_lt_or_eq.1 hp with hlt | heq
    · rw [hdec.stored.leValue fun c hc ⟨i, hi, hnew⟩ => ?_, h.samples k hk hlt]
      rw [slot_eq_sampleAt] at hnew
      have hother : k ≠ 32 * b + j + 2 * i := by
        rintro rfl
        unfold phaseOfSample at hlt
        omega
      exact samples_apart dst hsize hk (by omega) hother c hc hnew
    · have hentry (n : Nat) : t.tcEntry n = s.tcEntry n := by
        rw [State.tcEntry, State.tcEntry, h.frame]
      rw [sampleAt_eq_slot dst hj heq, hsamples _ (by omega), phaseSample, hentry, h.stream, h.rng, heq, ← rngAfter_add]
      rfl

/-! ### A row (44_decoder.md R180) -/

/-- The row of w samples read from src is decoded to dst. -/
structure DecodedRow (dst src : Word) (w : Nat) (s t : State) : Prop where
  frame : t = { s with br := ⟨src + BitVec.ofNat 32 w, 0, 0, 0⟩, rng := t.rng, mem := t.mem, past := t.past }
  canonical : t.mem.wf = true
  rng : t.rng.toNat = rngAfter w (s.leValue w src % 2 ^ 16)
  stored : StoredIn (InRange dst (2 * w)) s t
  samples : ∀ k, k < w → t.leValue 2 (sampleAt dst k) = rowSample s (s.leValue w src) k

theorem reader_eq_of_done {r : BitReader} {p : Word} (hptr : r.ptr = p) (hrem : r.rem.toNat = 0)
    (hbuf : r.buf.toNat = 0)
    (hcnt : r.cnt.toNat = 0) : r = ⟨p, 0, 0, 0⟩ := by
  obtain ⟨ptr, rem, buf, cnt⟩ := r
  exact BitReader.mk.injEq .. ▸
    ⟨hptr, BitVec.eq_of_toNat_eq hrem, BitVec.eq_of_toNat_eq hbuf, BitVec.eq_of_toNat_eq hcnt⟩

/-- A reader that has delivered every bit of a window of whole words stands empty at its end. -/
theorem Advanced.reader_eq {n : Nat} {s t : State} (h : Advanced n s t) (hall : t.available = 0)
    (hwords : s.br.rem.toNat % 4 = 0) : t.br = ⟨s.br.ptr + s.br.rem, 0, 0, 0⟩ := by
  have hcnt : t.br.cnt.toNat = 0 := by unfold State.available at hall; omega
  have hbuf : t.br.buf.toNat = 0 := by
    have := h.ok; rw [ReaderOk, hcnt] at this; omega
  obtain ⟨hptr, hrem⟩ := h.at_end (by unfold State.available at hall; omega)
  refine reader_eq_of_done ?_ (by omega) hbuf hcnt
  rw [hptr, show 4 * (s.br.rem.toNat / 4) = s.br.rem.toNat by omega, BitVec.ofNat_toNat, BitVec.setWidth_eq]

/-- The window opened over a row and its seed in RNG: from there the phases of the row are decoded. -/
structure Seeded (src : Word) (w : Nat) (s t : State) : Prop
    extends Advanced 0 (s.openReader src (BitVec.ofNat 32 w)) t where
  frame : t = { s with br := t.br, rng := t.rng }
  rng : t.rng.toNat = s.leValue w src % 2 ^ 16
  stream : t.stream = s.leValue w src
  ready : Ready (8 * w) t
  all : t.available = 8 * w

theorem decodeRow_eq_blocks {src : Word} {w : Nat} {s : State} (hlt : w < 2 ^ 32) (hpos : w ≠ 0) (hmul : w % 32 = 0)
    (hs : Settled s src w) (dst : Word) :
    ∃ t, decodeRow dst src w s = forBlocks (fun b j => decodePhase (blockAddr dst b) j) (w / 32) t ∧
      Seeded src w s t := by
  obtain ⟨hready, havail, hstream⟩ := ready_of_opened hlt (by omega) hs
  obtain ⟨seed, t, ht, hseed, htook, -⟩ := peek_of_ready (n := 16) (by decide) (hready.mono (by omega))
  have hread := htook.stream
  rw [Nat.pow_zero, Nat.div_one, hstream] at hread
  have hall : Ready (8 * w) t := Ready.rest (n := 0) (by rwa [Nat.zero_add]) htook.toAdvanced
  have hadv := htook.toAdvanced
  refine ⟨{ t with rng := seed }, by rw [decodeRow_eq, ht, Res.bind_ok],
    ⟨hadv.ok, hadv.available, hadv.window, hadv.settled⟩,
    ?_, hseed.trans (by rw [hstream]), (State.stream_congr (s := t) (by rfl) (by rfl)).trans hread,
    ⟨hall.ok, hall.enough, hall.settled⟩, htook.available.trans havail⟩
  rw [htook.frame]
  rfl

/-- A well-formed row apart from its output is decoded, and fills its window exactly. -/
theorem decodeRow_of_settled {dst src : Word} {w : Nat} {s : State} (hlt : w < 2 ^ 32) (hpos : w ≠ 0)
    (hmul : w % 32 = 0)
    (hv : s.tcValid = true) (htable : TableInv s) (hwf : s.mem.wf = true) (hw : s.writesLeft = none)
    (hs : Settled s src w) (ha : Admitted s dst (2 * w)) (hapart : Apart dst (2 * w) src w)
    (hwell : RowWellFormed (s.leValue w src) w) :
    ∃ t, decodeRow dst src w s = .ok () t ∧ DecodedRow dst src w s t := by
  obtain ⟨t, ht, hseed⟩ := decodeRow_eq_blocks hlt hpos hmul hs dst
  have hsize : 2 * w < 2 ^ 32 := hapart.lt (Nat.pos_of_ne_zero hpos)
  have hrem : (s.openReader src (BitVec.ofNat 32 w)).br.rem.toNat = w := Nat.mod_eq_of_lt hlt
  have hframe := hseed.frame
  have hmem : t.mem = s.mem := by rw [hframe]
  have hwindow : Apart dst (2 * w) t.br.ptr (4 * (t.br.rem.toNat / 4)) := by
    intro c hc hc'
    have hsrc := hseed.inRange hc'
    rw [hrem] at hsrc
    exact hapart c hc (hsrc.mono (by omega))
  obtain ⟨u, hu, hdec⟩ := forBlocks_ok (n := w / 32) (P := fun p => DecodedPhases dst w p t)
    (body := fun b j => decodePhase (blockAddr dst b) j)
    (fun b j x hb hj hx => hx.step (by omega) hj (by rw [hframe]; exact hv)
      (by rw [hframe]; exact htable.congr (.of_eq rfl)) (by rw [hframe]; exact hw) hseed.ready (hseed.stream ▸ hwell)
      (ha.congr (by rw [hframe])) hwindow hsize.le)
    ⟨.zero hseed.ok, rfl, by rw [hmem]; exact hwf, rfl, .of_same rfl rfl, (Nat.div_one _).symm,
      fun _ _ hp => absurd hp (Nat.not_lt_zero _)⟩
  have hphases : 16 * (2 * (w / 32)) = w := by omega
  have hempty : u.available = 0 := by
    have := hdec.available
    have := hseed.all
    omega
  have hbr : u.br = ⟨src + BitVec.ofNat 32 w, 0, 0, 0⟩ :=
    (hseed.toAdvanced.trans hdec.toAdvanced).reader_eq hempty (by omega)
  refine ⟨u, ht.trans hu, by rw [← hbr, hdec.frame, hframe], hdec.canonical, ?_, ?_, fun k hk => ?_⟩
  · rw [hdec.rng, hseed.rng, hphases]
  · exact (StoredIn.of_same hmem (by rw [hframe])).trans hdec.stored
  · have hentry (n : Nat) : t.tcEntry n = s.tcEntry n := by rw [State.tcEntry, State.tcEntry, hframe]
    rw [hdec.samples k hk (by unfold phaseOfSample; omega), hentry, hseed.stream, hseed.rng]
    rfl

/-! ### An image (44_decoder.md R184, R187) -/

/-- The first r rows of the image are decoded, row k read from src + k·S to dst + 2·k·W. -/
structure DecodedRows (dst src : Word) (w stride r : Nat) (s t : State) : Prop where
  frame : t = { s with br := t.br, rng := t.rng, mem := t.mem, past := t.past }
  canonical : t.mem.wf = true
  stored : StoredIn (InRange dst (2 * (r * w))) s t
  units : (r = 0 → t.rng = s.rng ∧ t.br = s.br) ∧
    ∀ k, r = k + 1 → t.br = ⟨src + BitVec.ofNat 32 (k * stride + w), 0, 0, 0⟩ ∧
      t.rng.toNat = rngAfter w (s.leValue w (src + BitVec.ofNat 32 (k * stride)) % 2 ^ 16)
  samples : ∀ k m, k < r → m < w → t.leValue 2 (sampleAt dst (k * w + m)) =
    rowSample s (s.leValue w (src + BitVec.ofNat 32 (k * stride))) m

/-- What the rows of an image need: each settled, well-formed and apart from the whole output. -/
abbrev RowsReady (dst src : Word) (w stride h : Nat) (s : State) : Prop :=
  ∀ r, r < h → Settled s (src + BitVec.ofNat 32 (r * stride)) w ∧
    Apart dst (2 * w * h) (src + BitVec.ofNat 32 (r * stride)) w ∧
    RowWellFormed (s.leValue w (src + BitVec.ofNat 32 (r * stride))) w

theorem rowSample_congr {s t : State} (h : t.tc = s.tc) (row k : Nat) : rowSample t row k = rowSample s row k := by
  simp only [rowSample, State.tcEntry, h]

theorem DecodedRows.step {dst src : Word} {w stride h r : Nat} {s t : State} (hr : DecodedRows dst src w stride r s t)
    (hlt : r < h) (hwlt : w < 2 ^ 32) (hpos : w ≠ 0) (hmul : w % 32 = 0) (hv : s.tcValid = true) (htable : TableInv s)
    (hw : s.writesLeft = none) (ha : Admitted s dst (2 * w * h)) (hrows : RowsReady dst src w stride h s) :
    ∃ u, decodeRow (dst + BitVec.ofNat 32 (2 * r * w)) (src + BitVec.ofNat 32 (r * stride)) w t = .ok () u ∧
      DecodedRows dst src w stride (r + 1) s u := by
  obtain ⟨hset, hapart, hwell⟩ := hrows r hlt
  have hholes : t.holes = s.holes := by rw [hr.frame]
  have htc : t.tc = s.tc := by rw [hr.frame]
  have hsize : 2 * w * h < 2 ^ 32 := hapart.lt (Nat.pos_of_ne_zero hpos)
  have hfit : r * w + w ≤ w * h := by
    calc r * w + w = w * (r + 1) := by ring
      _ ≤ w * h := Nat.mul_le_mul_left w hlt
  have htwo : 2 * r * w = 2 * (r * w) := Nat.mul_assoc ..
  have htwo' : 2 * w * h = 2 * (w * h) := Nat.mul_assoc ..
  have hnext : 2 * ((r + 1) * w) = 2 * (r * w) + 2 * w := by ring
  have hvalue : t.leValue w (src + BitVec.ofNat 32 (r * stride)) = s.leValue w (src + BitVec.ofNat 32 (r * stride)) :=
    hr.stored.leValue fun c hc hout => hapart c (hout.mono (by omega)) hc
  obtain ⟨u, hu, hdec⟩ := decodeRow_of_settled (dst := dst + BitVec.ofNat 32 (2 * r * w)) hwlt hpos hmul
    (by rw [hr.frame]; exact hv) (by rw [hr.frame]; exact htable.congr (.of_eq rfl)) hr.canonical
    (by rw [hr.frame]; exact hw) (hr.stored.settled hholes hset) ((ha.drop (by omega)).congr hholes)
    (hapart.drop_left (by omega)) (hvalue ▸ hwell)
  refine ⟨u, hu, ?frame, hdec.canonical, ?stored, ⟨nofun, fun k hk => ?units⟩, fun k m hk hm => ?samples⟩
  case frame => rw [hdec.frame, hr.frame]
  case stored =>
    rw [hnext]
    exact (hr.stored.mono fun c hc => hc.mono (by omega)).trans (hdec.stored.mono fun c hc => hc.drop (by omega))
  case units =>
    obtain rfl : k = r := by omega
    refine ⟨by rw [hdec.frame, add_ofNat_add], ?_⟩
    rw [hdec.rng, hvalue]
  case samples =>
    rcases Nat.lt_succ_iff_lt_or_eq.1 hk with hold | rfl
    · have hbefore : k * w + w ≤ r * w := by
        calc k * w + w = (k + 1) * w := by ring
          _ ≤ r * w := Nat.mul_le_mul_right w hold
      rw [hdec.stored.leValue fun c hc hnew => ?_, hr.samples k m hold hm]
      exact apart_of_offsets dst (i := 2 * (k * w + m)) (j := 2 * r * w) (by omega) (by omega) c hc hnew
    · have haddr : sampleAt dst (k * w + m) = sampleAt (dst + BitVec.ofNat 32 (2 * k * w)) m := by
        rw [sampleAt, sampleAt, add_ofNat_add]
        congr 2
        ring
      rw [haddr, hdec.samples m hm, hvalue, rowSample_congr htc]

theorem decodeImage_of_settled {dst src : Word} {w stride h : Nat} {s : State} (hwlt : w < 2 ^ 32) (hpos : w ≠ 0)
    (hmul : w % 32 = 0) (hv : s.tcValid = true) (htable : TableInv s) (hwf : s.mem.wf = true) (hw : s.writesLeft = none)
    (ha : Admitted s dst (2 * w * h)) (hrows : RowsReady dst src w stride h s) :
    ∃ t, decodeImage dst src w stride h s = .ok () t ∧ DecodedRows dst src w stride h s t := by
  have hloop := forRange_ok (P := fun r => DecodedRows dst src w stride r s) (last := h)
    (fun r t hr ht => ht.step hr hwlt hpos hmul hv htable hw ha hrows) h 0 s (Nat.zero_add h).le
    ⟨rfl, hwf, .of_same rfl rfl, ⟨fun _ => ⟨rfl, rfl⟩, nofun⟩, fun _ _ hk => absurd hk (Nat.not_lt_zero _)⟩
  simpa only [Nat.zero_add, decodeImage] using hloop

/-! ### The commands (44_decoder.md R183, R184) -/

theorem commandWork_dcDrow {s : State} (hv : s.tcValid = true) (hpos : s.gWidth.toNat ≠ 0)
    (hmul : s.gWidth.toNat % 32 = 0)
    (ra rb : Reg) : commandWork (.dcDrow ra rb) s = decodeRow (s.getX ra) (s.getX rb) s.gWidth.toNat s := by
  rw [commandWork, requireTable_of_valid hv, Res.bind_ok, checkWidth_of_legal hpos hmul, Res.bind_ok]

theorem checkDecodeGeometry_of_legal {s : State} (hpos : s.gWidth.toNat ≠ 0) (hmul : s.gWidth.toNat % 32 = 0)
    (hstride : s.gWidth.toNat ≤ s.rowStride)
    (hlen : 0 < s.gHeight.toNat → (s.gHeight.toNat - 1) * s.rowStride + s.gWidth.toNat ≤ s.gSrclen.toNat) :
    checkDecodeGeometry s = .ok s.gWidth.toNat s := by
  rw [checkDecodeGeometry, checkWidth_of_legal hpos hmul, Res.bind_ok, if_neg (Nat.not_lt.2 hstride),
    if_neg fun hshort => Nat.not_lt.2 (hlen hshort.1) hshort.2]

theorem commandWork_dcDec {s : State} (hv : s.tcValid = true) (hpos : s.gWidth.toNat ≠ 0)
    (hmul : s.gWidth.toNat % 32 = 0)
    (hstride : s.gWidth.toNat ≤ s.rowStride)
    (hlen : 0 < s.gHeight.toNat → (s.gHeight.toNat - 1) * s.rowStride + s.gWidth.toNat ≤ s.gSrclen.toNat)
    (ra rb : Reg) :
    commandWork (.dcDec ra rb) s =
      decodeImage (s.getX ra) (s.getX rb) s.gWidth.toNat s.rowStride s.gHeight.toNat s := by
  rw [commandWork, requireTable_of_valid hv, Res.bind_ok, checkDecodeGeometry_of_legal hpos hmul hstride hlen,
    Res.bind_ok]

/-- Any row is its window, its seed and its phases in turn. -/
theorem decodeRow_inTurn {dst src : Word} {w : Nat} {s : State} (hs : Running w s) :
    ∃ t, conclude (decodeRow dst src w s) = .next t ∧ SameCodec (rowDecoded dst src w s) t := by
  have hpeek : exec (.brPeek 0 16) (s.openReader src (BitVec.ofNat 32 w)) =
      conclude ((peek 16 (s.openReader src (BitVec.ofNat 32 w))).bind fun v t => .ok () (t.setX 0 v)) := by
    rw [exec_of_ne_stop (by simp), commandWork_brPeek (by decide)]
    rfl
  have hturn (t : State) (ht : Running w t) {u : State} (hu : Elsewhere t u) :=
    inTurn_sameCodec (w := w) (F := fun p u => exec (.dcDph 0 p.2) (u.setX 0 p.1))
      (f := fun (p : Word × Phase) => decodePhase p.1 p.2.val)
      (fun p t ht => ⟨t.setX 0 p.1, .setX t 0 p.1, by
        have hv : (t.setX 0 p.1).tcValid = true := ht.valid
        rw [exec_of_ne_stop (by simp), commandWork_dcDph hv, State.getX_setX_same]⟩)
      (fun p _ _ h => relates_elsewhere.decodePhase h p.1 p.2.val)
      (fun p t ht => ht.decode (decodePhase_same p.1 p.2.val t)) (rowPhases dst w) hu ht
  have hopened : Running w (s.openReader src (BitVec.ofNat 32 w)) := ⟨hs.busy, hs.fault, hs.hung, hs.valid, hs.width⟩
  have hkeep := hopened.decode (peek_same 16 _).decode
  unfold rowDecoded
  rw [decodeRow_eq, show exec (.brPeek 0 16) { s with br := ⟨src, BitVec.ofNat 32 w, 0, 0⟩ } = _ from hpeek]
  cases hp : peek 16 (s.openReader src (BitVec.ofNat 32 w)) with
  | ok v t =>
    rw [hp] at hkeep
    have hgo : ¬((t.setX 0 v).retire.fault || (t.setX 0 v).retire.hung) = true := by
      rw [show (t.setX 0 v).retire.fault = false from hkeep.fault,
        show (t.setX 0 v).retire.hung = false from hkeep.hung]
      decide
    have hseed : (t.setX 0 v).retire.getX 0 = v := State.getX_setX_same t 0 v
    simp only [Res.bind_ok, conclude_ok]
    rw [if_neg hgo, hseed, forBlocks_eq_inSequence (fun p => decodePhase p.1 p.2.val) _ dst w fun _ _ => rfl]
    exact hturn { t with rng := v } ⟨hkeep.busy, hkeep.fault, hkeep.hung, hkeep.valid, hkeep.width⟩ ⟨_, _, _, rfl⟩
  | raise c info t =>
    exact ⟨_, rfl, ⟨rfl, rfl, rfl, rfl, rfl, rfl, rfl, rfl, rfl, rfl, rfl⟩⟩
  | stuck t =>
    rw [hp] at hkeep
    refine ⟨_, rfl, ?_⟩
    have hstop : (t.hang.fault || t.hang.hung) = true := Bool.or_true _
    simp only [Res.bind_stuck, conclude_stuck]
    rw [if_pos hstop]
    exact ⟨rfl, rfl, rfl, rfl, rfl, rfl, rfl, rfl, rfl, rfl, rfl⟩

/-- Settles O35: each phase of a well-formed row is 128 bits, so the row's phases follow one another to the window's
end; and any row is the same work as the commands in turn. -/
theorem drowDecodesRow : Obligations.DrowDecodesRow := by
  unfold Obligations.DrowDecodesRow
  refine ⟨?_, fun ra rb s hbusy hfault hhung hv hpos hmul => ?_⟩
  · intro ra rb s hv htable hstore hpos hmul hs ha hapart hwell
    obtain ⟨t, ht, hdec⟩ := decodeRow_of_settled s.gWidth.isLt hpos hmul hv htable hstore.canonical hstore.settled hs ha
      hapart hwell
    have hbr : t.br = ⟨s.getX rb + s.gWidth, 0, 0, 0⟩ := by
      rw [hdec.frame, BitVec.ofNat_toNat, BitVec.setWidth_eq]
    refine ⟨_, exec_of_work_ok (by simp) ((commandWork_dcDrow hv hpos hmul ra rb).trans ht), ?_, hbr, hdec.rng,
      fun k hk => (State.leValue_congr (s := t) (by rfl) _ _).trans (hdec.samples k hk)⟩
    exact completed_of_storedIn (by rw [hdec.frame]) (hdec.stored.mono fun a ha => ⟨_, List.mem_singleton_self _, ha⟩)
      nofun nofun (fun _ => by rw [hdec.frame])
  · rw [exec_of_ne_stop (by simp), commandWork_dcDrow hv hpos hmul]
    exact decodeRow_inTurn ⟨hbusy, hfault, hhung, hv, rfl⟩

theorem decodeImage_eq_inSequence (dst src : Word) (w stride h : Nat) (s : State) :
    decodeImage dst src w stride h s =
      inSequence (fun p => decodeRow p.1 p.2 w) (imageRows dst src (2 * w) stride h) s := by
  rw [decodeImage, forRange_eq_inSequence, imageRows, inSequence_map, ← List.range_eq_range']
  congr 1
  funext r
  rw [show 2 * r * w = r * (2 * w) by ring]

/-- Settles O36: no row of the output meets a row still to be read; and any image is the same work as the row commands
in turn. -/
theorem decDecodesImage : Obligations.DecDecodesImage := by
  unfold Obligations.DecDecodesImage
  refine ⟨?_, ?_⟩
  · rintro ra rb s w h stride hv htable hstore rfl rfl hstride hpos hmul hle hlen ha hrows
    rw [← State.rowStride_eq] at hstride
    subst hstride
    obtain ⟨t, ht, hdec⟩ := decodeImage_of_settled s.gWidth.isLt hpos hmul hv htable hstore.canonical hstore.settled
      ha hrows
    obtain ⟨hnone, hsome⟩ := hdec.units
    refine ⟨_, exec_of_work_ok (by simp) ((commandWork_dcDec hv hpos hmul hle hlen ra rb).trans ht), ?_, hnone,
      fun hrow => hsome (s.gHeight.toNat - 1) (by omega),
      fun r k hr hk => (State.leValue_congr (s := t) (by rfl) _ _).trans (hdec.samples r k hr hk)⟩
    refine completed_of_storedIn (by rw [hdec.frame]) (hdec.stored.mono fun a ha => ⟨_, List.mem_singleton_self _, ?_⟩)
      nofun nofun (fun _ => by rw [hdec.frame])
    exact ha.mono (by rw [show 2 * (s.gHeight.toNat * s.gWidth.toNat) = 2 * s.gWidth.toNat * s.gHeight.toNat by ring])
  · rintro ra rb s w stride hbusy hfault hhung hv rfl hstride hpos hmul hle hlen
    rw [← State.rowStride_eq] at hstride
    subst hstride
    have hturn := inTurn_sameCodec (w := s.gWidth.toNat)
      (F := fun p u => exec (.dcDrow 0 1) ((u.setX 0 p.1).setX 1 p.2))
      (f := fun (p : Word × Word) => decodeRow p.1 p.2 s.gWidth.toNat)
      (fun p t ht => ⟨_, (Elsewhere.setX t 0 p.1).trans (.setX _ 1 p.2), ?_⟩)
      (fun p _ _ h => relates_elsewhere.decodeRow h p.1 p.2 s.gWidth.toNat)
      (fun p t ht => ht.decode (decodeRow_same p.1 p.2 s.gWidth.toNat t))
      (imageRows (s.getX ra) (s.getX rb) (2 * s.gWidth.toNat) s.rowStride s.gHeight.toNat) (.refl s)
      ⟨hbusy, hfault, hhung, hv, rfl⟩
    · rw [exec_of_ne_stop (by simp), commandWork_dcDec hv hpos hmul hle hlen, decodeImage_eq_inSequence]
      exact hturn
    · have hv' : ((t.setX 0 p.1).setX 1 p.2).tcValid = true := ht.valid
      have hw' : ((t.setX 0 p.1).setX 1 p.2).gWidth.toNat = s.gWidth.toNat := ht.width
      rw [exec_of_ne_stop (by simp), commandWork_dcDrow hv' (hw'.symm ▸ hpos) (hw'.symm ▸ hmul), hw',
        State.getX_setX_same, State.getX_setX_other _ _ (by decide), State.getX_setX_same]

end Sys2Proof.Machine
end


section
/-!
SUPPORT and the statement about the reset input (70_reset_and_hazards.md R245, R247): ResetInput.  Before it stand the
writes a run has made since a state and what undoing them gives (`Grown`), and the run of a command that a reset cuts
off against the whole run: `InStep` while both go on alike, `CutOff` once the first has stopped at the write it may no
longer make.
-/

namespace Sys2Proof.Machine

/-! ### Writes made and undone (70_reset_and_hazards.md R247) -/

theorem undo_append (k l : List PastWrite) (m : Memory) :
    undo (k.length + l.length) (k ++ l) m = undo l.length l (undo k.length k m) := by
  induction k generalizing m with
  | nil => rw [List.length_nil, Nat.zero_add, List.nil_append]; cases l <;> rfl
  | cons w k ih => rw [List.length_cons, Nat.succ_add, List.cons_append, undo, undo, ih]

theorem undo_append_left (k l : List PastWrite) (m : Memory) : undo k.length (k ++ l) m = undo k.length k m := by
  induction k generalizing m with
  | nil => cases l <;> rfl
  | cons w k ih => rw [List.length_cons, List.cons_append, undo, undo, ih]

/-- Undoing writes of other addresses leaves a byte. -/
theorem read_undo {l : List PastWrite} {m : Memory} (h : m.wf = true) {a : Word} (ha : ∀ w ∈ l, w.addr ≠ a) :
    (undo l.length l m).read a.toNat = m.read a.toNat := by
  induction l generalizing m with
  | nil => rfl
  | cons w l ih =>
    obtain ⟨hw, hl⟩ := List.forall_mem_cons.1 ha
    have hne : w.addr.toNat ≠ a.toNat := fun heq => hw (BitVec.eq_of_toNat_eq heq)
    rw [List.length_cons, undo, ih (Memory.write_wf h w.addr.isLt) hl, Memory.read_write h, if_neg hne]

/-- The writes recorded from `s` to `t` are those of l, newest first, and undoing them gives the memory of `s`. -/
structure Grown (s t : State) (l : List PastWrite) : Prop where
  past : t.past = l ++ s.past
  undone : undo l.length l t.mem = s.mem
  canonical : t.mem.wf = true

theorem Grown.refl {s : State} (h : s.mem.wf = true) : Grown s s [] := ⟨rfl, rfl, h⟩

theorem Grown.trans {s t u : State} {k l : List PastWrite} (h : Grown s t k) (g : Grown t u l) :
    Grown s u (l ++ k) where
  past := by rw [g.past, h.past, List.append_assoc]
  undone := by rw [List.length_append, undo_append, g.undone, h.undone]
  canonical := g.canonical

theorem Grown.congr {s t u : State} {l : List PastWrite} (h : Grown s t l) (hmem : u.mem = t.mem)
    (hpast : u.past = t.past) :
    Grown s u l :=
  ⟨hpast.trans h.past, by rw [hmem]; exact h.undone, by rw [hmem]; exact h.canonical⟩

theorem Grown.byteAt {s t : State} {l : List PastWrite} (h : Grown s t l) {a : Word} (ha : ∀ w ∈ l, w.addr ≠ a) :
    t.byteAt a = s.byteAt a := by
  rw [State.byteAt, State.byteAt, ← h.undone, read_undo h.canonical ha]

/-- A byte written and then given its old value back is the byte it was. -/
theorem grown_storeByte {s : State} (h : s.mem.wf = true) (a : Word) (b : Byte) :
    Grown s (s.storeByte false a b) [⟨a, s.mem.read a.toNat, false⟩] where
  past := rfl
  undone := by
    have hwf := Memory.write_wf (b := b) h a.isLt
    refine Memory.ext_of_read (Memory.write_wf hwf a.isLt) h fun c => ?_
    show Memory.read ((s.mem.write a.toNat b).write a.toNat (s.mem.read a.toNat)) c = s.mem.read c
    rw [Memory.read_write hwf, Memory.read_write h]
    split
    next heq => rw [heq]
    next hne => rfl
  canonical := Memory.write_wf h a.isLt

theorem memWrite_grown (n : Nat) (a : Word) (v : Nat) {s : State} (h : s.mem.wf = true) :
    ∃ l, Grown s (memWrite n a v s).final l := by
  induction n generalizing a v s with
  | zero => exact ⟨[], .refl h⟩
  | succ n ih =>
    unfold memWrite
    split
    · exact ⟨[], .refl h⟩
    · next t ht =>
      have hbyte := (grown_storeByte h a (BitVec.ofNat 8 v)).congr (u := t)
        (by rw [(State.writeByte_eq_some ht).2.2]) (by rw [(State.writeByte_eq_some ht).2.2])
      obtain ⟨l, hl⟩ := ih (a + 1) (v / 256) hbyte.canonical
      exact ⟨_, hbyte.trans hl⟩

/-! ### A run that a reset cuts off, and the whole run -/

section cut
variable {base : State} {kept : Nat} {rest : List HostEvent} {c f : State}

/-- The run `c` that a reset cuts off after `kept` writes and the whole run `f` have gone the same way from `base`. -/
def InStep (base : State) (kept : Nat) (rest : List HostEvent) (c f : State) : Prop :=
  ∃ l, Grown base f l ∧ l.length ≤ kept ∧ f.writesLeft = none ∧
    c = { f with writesLeft := some (kept - l.length), inputs := rest }

/-- The run `c` has stopped after `kept` writes and the run `f` has made more. -/
def CutOff (base : State) (kept : Nat) (c f : State) : Prop :=
  ∃ k l, Grown base c k ∧ k.length = kept ∧ Grown c f l ∧ l ≠ []

theorem InStep.eq (h : InStep base kept rest c f) : c = { f with writesLeft := c.writesLeft, inputs := c.inputs } := by
  obtain ⟨l, -, -, -, rfl⟩ := h
  rfl

/-- A change that both runs make alike, of anything but memory and its record, leaves them in step. -/
theorem InStep.change {c' f' : State} (h : InStep base kept rest c f)
    (heq : c' = { f' with writesLeft := c.writesLeft, inputs := c.inputs }) (hmem : f'.mem = f.mem)
    (hpast : f'.past = f.past) (hw : f'.writesLeft = f.writesLeft) : InStep base kept rest c' f' := by
  obtain ⟨l, hl, hle, hnone, rfl⟩ := h
  exact ⟨l, hl.congr hmem hpast, hle, hw.trans hnone, heq⟩

theorem CutOff.change {f' : State} (h : CutOff base kept c f) (hmem : f'.mem = f.mem) (hpast : f'.past = f.past) :
    CutOff base kept c f' := by
  obtain ⟨k, l, hk, hlen, hl, hne⟩ := h
  exact ⟨k, l, hk, hlen, hl.congr hmem hpast, hne⟩

theorem CutOff.store (h : CutOff base kept c f) (n : Nat) (a : Word) (v : Nat) :
    CutOff base kept c (memWrite n a v f).final := by
  obtain ⟨k, l, hk, hlen, hl, hne⟩ := h
  obtain ⟨l', hl'⟩ := memWrite_grown n a v hl.canonical
  exact ⟨k, l' ++ l, hk, hlen, hl.trans hl', by simp [hne]⟩

/-- A store goes on in step, or the cut run stops before one of its bytes. -/
theorem memWrite_inStep (n : Nat) (a : Word) (v : Nat) (h : InStep base kept rest c f) :
    EndsAlike (InStep base kept rest) (CutOff base kept) (memWrite n a v c) (memWrite n a v f) := by
  induction n generalizing a v c f with
  | zero => exact .ok () h
  | succ n ih =>
    obtain ⟨l, hl, hle, hnone, rfl⟩ := h
    have hbyte := grown_storeByte hl.canonical a (BitVec.ofNat 8 v)
    by_cases ha : f.admits a = true
    · rw [memWrite, memWrite, State.writeByte_ok ha hnone]
      rcases Nat.eq_zero_or_pos (kept - l.length) with hzero | hpos
      · have hcut : State.writeByte { f with writesLeft := some (kept - l.length), inputs := rest } a
          (BitVec.ofNat 8 v) = none := by
          rw [hzero, State.writeByte, if_neg (by simp)]
        have hpast : CutOff base kept { f with writesLeft := some (kept - l.length), inputs := rest }
            (f.storeByte false a (BitVec.ofNat 8 v)) :=
          ⟨l, _, hl.congr rfl rfl, by omega, ⟨hbyte.past, hbyte.undone, hbyte.canonical⟩, List.cons_ne_nil _ _⟩
        rw [hcut]
        exact .past (hpast.store n (a + 1) (v / 256))
      · have hgo : State.writeByte { f with writesLeft := some (kept - l.length), inputs := rest } a
          (BitVec.ofNat 8 v) =
            some { f.storeByte false a (BitVec.ofNat 8 v) with
              writesLeft := some (kept - l.length - 1), inputs := rest } := by
          have hleft : (some (kept - l.length) != some 0) = true := by simp; omega
          rw [State.writeByte, if_pos (by
            rw [Bool.and_eq_true]
            exact ⟨ha, hleft⟩)]
          rfl
        have hnext : InStep base kept rest { f.storeByte false a (BitVec.ofNat 8 v) with
            writesLeft := some (kept - l.length - 1), inputs := rest } (f.storeByte false a (BitVec.ofNat 8 v)) := by
          refine ⟨_, hl.trans hbyte, ?_, hnone, ?_⟩
          · rw [List.length_append, List.length_singleton]
            omega
          · rw [List.length_append, List.length_singleton, Nat.add_comm, Nat.sub_sub]
        rw [hgo]
        exact ih (a + 1) (v / 256) hnext
    · have hno (k : Option Nat) (q : List HostEvent) :
          State.writeByte { f with writesLeft := k, inputs := q } a (BitVec.ofNat 8 v) = none :=
        if_neg fun hyes => ha (Bool.and_eq_true_iff.1 hyes).1
      rw [memWrite, memWrite, hno, hno f.writesLeft f.inputs]
      exact .stuck ⟨l, hl, hle, hnone, rfl⟩

theorem relates_inStep (base : State) (kept : Nat) (rest : List HostEvent) :
    Relates (InStep base kept rest) (CutOff base kept) where
  rng h := by rw [h.eq]
  br h := by rw [h.eq]
  bw h := by rw [h.eq]
  tc h := by rw [h.eq]
  units rng br bw h := h.change (by rw [h.eq]) rfl rfl rfl
  load a n h := memRead_alike (fun h => by rw [h.eq]) (fun h => by rw [h.eq]) (fun h => by rw [h.eq])
    (fun h => by rw [h.eq])
    (fun d h => h.change (by rw [h.eq]) rfl rfl rfl) h a n
  store n a v h := memWrite_inStep n a v h
  pastUnits _ _ _ _ h := h.change rfl rfl
  pastLoad a n h := h.change (by rw [(memRead_same a n _)]) (by rw [(memRead_same a n _)])
  pastStore n a v h := h.store n a v

/-! ### Commands of both runs -/

theorem InStep.getX (h : InStep base kept rest c f) (r : Reg) : c.getX r = f.getX r := by
  rw [h.eq]
  rfl

theorem InStep.setX (h : InStep base kept rest c f) (r : Reg) (v : Word) :
    InStep base kept rest (c.setX r v) (f.setX r v) :=
  h.change (by rw [h.eq]; rfl) rfl rfl rfl

theorem InStep.readCsr (h : InStep base kept rest c f) (r : Csr) : c.readCsr r = f.readCsr r := by
  rw [h.eq]
  cases r <;> rfl

theorem InStep.writeCsr (h : InStep base kept rest c f) (r : Csr) (v : Word) :
    c.writeCsr r v = (f.writeCsr r v).map fun t => { t with writesLeft := c.writesLeft, inputs := c.inputs } := by
  obtain ⟨l, -, -, -, rfl⟩ := h
  cases r <;> rfl

theorem writeCsr_memory {s t : State} {r : Csr} {v : Word} (h : s.writeCsr r v = some t) :
    t.mem = s.mem ∧ t.past = s.past ∧ t.writesLeft = s.writesLeft := by
  cases r <;> cases h <;> exact ⟨rfl, rfl, rfl⟩

theorem InStep.gHeight (h : InStep base kept rest c f) : c.gHeight = f.gHeight := by rw [h.eq]

theorem InStep.requireTable (h : InStep base kept rest c f) :
    EndsAlike (InStep base kept rest) (CutOff base kept) (requireTable c) (requireTable f) := by
  rw [Machine.requireTable, Machine.requireTable, show c.tcValid = f.tcValid by rw [h.eq]]
  split
  · exact .ok () h
  · exact .raise _ _ h

theorem InStep.requireBelow (h : InStep base kept rest c f) (limit : Nat) (v : Word) :
    EndsAlike (InStep base kept rest) (CutOff base kept) (requireBelow limit v c) (requireBelow limit v f) := by
  unfold Machine.requireBelow
  split
  · exact .ok () h
  · exact .raise _ _ h

theorem InStep.checkWidth (h : InStep base kept rest c f) :
    EndsAlike (InStep base kept rest) (CutOff base kept) (checkWidth c) (checkWidth f) := by
  rw [Machine.checkWidth, Machine.checkWidth, show c.gWidth = f.gWidth by rw [h.eq]]
  split
  · exact .raise _ _ h
  · split
    · exact .raise _ _ h
    · exact .ok _ h

theorem InStep.rowStride (h : InStep base kept rest c f) : c.rowStride = f.rowStride := by
  rw [h.eq]
  rfl

theorem InStep.checkDecodeGeometry (h : InStep base kept rest c f) :
    EndsAlike (InStep base kept rest) (CutOff base kept) (checkDecodeGeometry c) (checkDecodeGeometry f) := by
  refine h.checkWidth.bind (fun w c' f' h' => ?_) fun w c' f' h' => ?_
  · rw [h'.rowStride, h'.gHeight, show c'.gSrclen = f'.gSrclen by rw [h'.eq]]
    split
    · exact .raise _ _ h'
    · split
      · exact .raise _ _ h'
      · exact .ok _ h'
  · split
    · exact h'
    · split <;> exact h'

/-- A command on the table with an operand below `limit`. -/
theorem InStep.tableOperand (h : InStep base kept rest c f) (limit : Nat) (rs : Reg) {g : State → Res Unit}
    (hg : ∀ {c f}, InStep base kept rest c f → EndsAlike (InStep base kept rest) (CutOff base kept) (g c) (g f))
    (hE : ∀ {c f}, CutOff base kept c f → CutOff base kept c (g f).final) :
    EndsAlike (InStep base kept rest) (CutOff base kept)
      ((Machine.requireTable c).bind fun _ s => (Machine.requireBelow limit (s.getX rs) s).bind fun _ s => g s)
      ((Machine.requireTable f).bind fun _ s => (Machine.requireBelow limit (s.getX rs) s).bind fun _ s => g s) := by
  refine h.requireTable.bind (fun _ c' f' h' => ?_) fun _ c' f' h' => ?_
  · rw [h'.getX]
    exact (h'.requireBelow limit _).bind (fun _ _ _ h'' => hg h'') fun _ _ _ h'' => hE h''
  · exact Res.final_bind_of (by rwa [requireBelow_final]) fun _ u _ hu => hE hu

theorem InStep.withCount (h : InStep base kept rest c f) (i : Instr) (n : BitVec 6) {r q : Res Unit}
    (hr : n.toNat ≤ 32 → EndsAlike (InStep base kept rest) (CutOff base kept) r q) :
    EndsAlike (InStep base kept rest) (CutOff base kept) (withCount i n c r) (withCount i n f q) := by
  unfold Machine.withCount
  split
  next hn => exact hr (of_decide_eq_true hn)
  next hn => exact .raise _ _ h

/-- A primitive whose value goes to a register. -/
theorem EndsAlike.bind_setX {r q : Res Word} (h : EndsAlike (InStep base kept rest) (CutOff base kept) r q) (rd : Reg) :
    EndsAlike (InStep base kept rest) (CutOff base kept) (r.bind fun v t => .ok () (t.setX rd v))
      (q.bind fun v t => .ok () (t.setX rd v)) :=
  h.bind (fun v _ _ h' => .ok () (h'.setX rd v)) fun _ _ _ h' => h'.change rfl rfl

/-- The work of every command. -/
theorem InStep.commandWork (i : Instr) (h : InStep base kept rest c f) :
    EndsAlike (InStep base kept rest) (CutOff base kept) (commandWork i c) (commandWork i f) := by
  have hR := relates_inStep base kept rest
  cases i with
  | nop => exact .ok () h
  | stop => exact .ok () h
  | li rd imm => exact .ok () (h.setX rd _)
  | lui rd imm =>
    rw [Machine.commandWork, Machine.commandWork, h.getX]
    exact .ok () (h.setX rd _)
  | csrr rd r =>
    rw [Machine.commandWork, Machine.commandWork, h.readCsr]
    exact .ok () (h.setX rd _)
  | csrw r rs =>
    rw [Machine.commandWork, Machine.commandWork, h.getX, h.writeCsr]
    cases ht : f.writeCsr r (f.getX rs) with
    | none => exact .raise _ _ h
    | some t =>
      obtain ⟨hmem, hpast, hw⟩ := writeCsr_memory ht
      exact .ok () (h.change rfl hmem hpast hw)
  | brInit ra rl =>
    rw [Machine.commandWork, Machine.commandWork, h.getX, h.getX]
    exact .ok () (hR.setReader h _)
  | brPeek rd n => exact h.withCount _ n fun _ => (hR.peek h n.toNat).bind_setX rd
  | brGet rd n => exact h.withCount _ n fun hn => (hR.getBits h hn).bind_setX rd
  | brSkip n => exact h.withCount _ n fun _ => hR.consume h n.toNat
  | bwInit ra rl =>
    rw [Machine.commandWork, Machine.commandWork, h.getX, h.getX]
    exact .ok () (hR.setWriter h _)
  | bwPut rs n =>
    rw [Machine.commandWork, Machine.commandWork, h.getX]
    exact h.withCount _ n fun _ => hR.push h _ _
  | bwFin rd => exact (hR.finish h).bind_setX rd
  | tcBuild =>
    rw [Machine.commandWork, Machine.commandWork, show c.breakpoints = f.breakpoints by rw [h.eq]; rfl]
    cases buildTable f.breakpoints with
    | error info => exact .raise _ _ h
    | ok table => exact .ok () (h.change (by rw [h.eq]) rfl rfl rfl)
  | tcDith rd rs =>
    refine h.tableOperand 4096 rs (fun {c f} h' => ?_) fun h' => h'.change rfl rfl
    rw [h'.getX]
    exact (hR.dither h' _).bind (fun p _ _ h'' => .ok () (h''.setX rd _)) fun _ _ _ h'' => h''.change rfl rfl
  | tcRlk rd rs =>
    refine h.tableOperand 65536 rs (fun {c f} h' => ?_) fun h' => h'.change rfl rfl
    rw [h'.getX, hR.tc h']
    exact .ok () (h'.setX rd _)
  | tcCtr rd rs =>
    refine h.tableOperand 4096 rs (fun {c f} h' => ?_) fun h' => h'.change rfl rfl
    rw [h'.getX, State.tcEntry, State.tcEntry, hR.tc h']
    exact .ok () (h'.setX rd _)
  | tcBd rd rs =>
    refine h.tableOperand 4096 rs (fun {c f} h' => ?_) fun h' => h'.change rfl rfl
    rw [h'.getX, State.tcEntry, State.tcEntry, hR.tc h']
    exact .ok () (h'.setX rd _)
  | dcDph ra j =>
    refine h.requireTable.bind (fun _ _ _ h' => ?_) fun _ c' _ h' => decodePhase_keeps (hR.keeps c') _ _ h'
    rw [h'.getX]
    exact hR.decodePhase h' _ _
  | dcEph ra j =>
    refine h.requireTable.bind (fun _ _ _ h' => ?_) fun _ c' _ h' => encodePhase_keeps (hR.keeps c') _ _ h'
    rw [h'.getX]
    exact hR.encodePhase h' _ _
  | dcDrow ra rb =>
    refine h.requireTable.bind (fun _ _ _ h' => ?_) fun _ c' _ h' =>
      Res.final_bind_of (by rwa [checkWidth_final]) fun _ _ _ hu => decodeRow_keeps (hR.keeps c') _ _ _ hu
    refine h'.checkWidth.bind (fun w _ _ h'' => ?_) fun _ c' _ h'' => decodeRow_keeps (hR.keeps c') _ _ _ h''
    rw [h''.getX, h''.getX]
    exact hR.decodeRow h'' _ _ w
  | dcErow ra rb =>
    refine h.requireTable.bind (fun _ _ _ h' => ?_) fun _ c' _ h' =>
      Res.final_bind_of (by rwa [checkWidth_final]) fun _ _ _ hu => encodeRow_keeps (hR.keeps c') _ _ _ hu
    refine h'.checkWidth.bind (fun w _ _ h'' => ?_) fun _ c' _ h'' => encodeRow_keeps (hR.keeps c') _ _ _ h''
    rw [h''.getX, h''.getX]
    exact hR.encodeRow h'' _ _ w
  | dcDec ra rb =>
    refine h.requireTable.bind (fun _ _ _ h' => ?_) fun _ c' _ h' =>
      Res.final_bind_of (by rwa [checkDecodeGeometry_final]) fun _ _ _ hu =>
        decodeImage_keeps (hR.keeps c') _ _ _ _ _ hu
    refine h'.checkDecodeGeometry.bind (fun w _ _ h'' => ?_) fun _ c' _ h'' =>
      decodeImage_keeps (hR.keeps c') _ _ _ _ _ h''
    rw [h''.getX, h''.getX, h''.rowStride, h''.gHeight]
    exact hR.decodeImage h'' _ _ w _ _
  | dcEnc ra rb =>
    refine h.requireTable.bind (fun _ _ _ h' => ?_) fun _ c' _ h' =>
      Res.final_bind_of (by rwa [checkWidth_final]) fun _ _ _ hu => encodeImage_keeps (hR.keeps c') _ _ _ _ hu
    refine h'.checkWidth.bind (fun w _ _ h'' => ?_) fun _ c' _ h'' => encodeImage_keeps (hR.keeps c') _ _ _ _ h''
    rw [h''.getX, h''.getX, h''.gHeight]
    exact hR.encodeImage h'' _ _ w _

/-- What a reset that cut the run off in `c` leaves of it, against the whole run's end `u`: its first `kept` writes, and
its draws where they are all. -/
def KeptOf (base : State) (kept : Nat) (c u : State) : Prop :=
  ∀ l, u.past = l ++ base.past → c.mem = undo (l.length - kept) l u.mem ∧ (l.length ≤ kept → c.draws = u.draws) ∧
    ∀ a, (∀ w ∈ l, w.addr ≠ a) → c.byteAt a = base.byteAt a

theorem InStep.keptOf (h : InStep base kept rest c f) : KeptOf base kept c f := by
  intro l hl
  obtain ⟨k, hk, hle, -, rfl⟩ := h
  obtain rfl : k = l := List.append_cancel_right (hk.past.symm.trans hl)
  refine ⟨?_, fun _ => rfl, fun a ha => hk.byteAt ha⟩
  rw [Nat.sub_eq_zero_of_le hle]
  cases k <;> rfl

theorem CutOff.keptOf (h : CutOff base kept c f) : KeptOf base kept c f := by
  intro l hl
  obtain ⟨k, l', hk, hlen, hl', hne⟩ := h
  obtain rfl : l' ++ k = l := List.append_cancel_right ((hk.trans hl').past.symm.trans hl)
  have hmore : 0 < l'.length := List.length_pos_iff.2 hne
  refine ⟨?_, fun hle => ?_, fun a ha => hk.byteAt fun w hw => ha w (List.mem_append_right _ hw)⟩
  · rw [List.length_append, hlen, Nat.add_sub_cancel, undo_append_left, hl'.undone]
  · rw [List.length_append] at hle
    omega

theorem KeptOf.congr {c' u u' : State} (h : KeptOf base kept c u) (hm : c'.mem = c.mem) (hd : c'.draws = c.draws)
    (hmu : u'.mem = u.mem) (hpu : u'.past = u.past) (hdu : u'.draws = u.draws) : KeptOf base kept c' u' := by
  intro l hl
  obtain ⟨hmem, hdraws, hbytes⟩ := h l (hpu.symm.trans hl)
  refine ⟨by rw [hm, hmu, hmem], fun hle => by rw [hd, hdu, hdraws hle], fun a ha => ?_⟩
  rw [← hbytes a ha, State.byteAt, State.byteAt, hm]

theorem conclude_memory {r : Res Unit} {u : State} (h : conclude r = .next u) :
    u.mem = r.final.mem ∧ u.past = r.final.past ∧ u.draws = r.final.draws := by
  cases r <;> cases h <;> exact ⟨rfl, rfl, rfl⟩

/-- However the two runs end, the cut one leaves what it may keep of the whole one. -/
theorem EndsAlike.keptOf {r q : Res Unit} (h : EndsAlike (InStep base kept rest) (CutOff base kept) r q) {u : State}
    (hu : conclude q = .next u) : ∃ d, conclude r = .next d ∧ KeptOf base kept d u := by
  have hkept : KeptOf base kept r.final q.final := by
    cases h with
    | ok _ h => exact h.keptOf
    | raise _ _ h => exact h.keptOf
    | stuck h => exact h.keptOf
    | past h => exact h.keptOf
  obtain ⟨d, hd⟩ := conclude_next r
  obtain ⟨hm, -, hdraws⟩ := conclude_memory hd
  obtain ⟨hmu, hpu, hdu⟩ := conclude_memory hu
  exact ⟨d, hd, hkept.congr hm hdraws hmu hpu hdu⟩

theorem InStep.exec {i : Instr} (h : InStep base kept rest c f) {u : State} (hu : exec i f = .next u) :
    ∃ d, exec i c = .next d ∧ KeptOf base kept d u := by
  by_cases hi : i = .stop
  · subst hi
    cases hu
    exact ⟨c.stopRun, rfl, h.keptOf.congr rfl rfl rfl rfl rfl⟩
  · rw [exec_of_ne_stop hi] at hu ⊢
    exact (h.commandWork i).keptOf hu

/-- A fetch stores nothing, so both runs fetch alike. -/
theorem InStep.fetch (h : InStep base kept rest c f) : EndsAlike (InStep base kept rest) NeverPast c.fetch f.fetch := by
  rw [State.fetch, State.fetch, show c.cp = f.cp by rw [h.eq]]
  refine EndsAlike.bind ?_ (fun w _ _ h' => .ok (BitVec.ofNat 32 w) h') fun _ _ _ h' => h'
  exact memRead_alike (fun h => by rw [h.eq]) (fun h => by rw [h.eq]) (fun h => by rw [h.eq]) (fun h => by rw [h.eq])
    (fun d h => h.change (by rw [h.eq]) rfl rfl rfl) h f.cp 4

theorem InStep.seqStep (h : InStep base kept rest c f) {u : State} (hu : seqStep f = .next u) :
    ∃ d, seqStep c = .next d ∧ KeptOf base kept d u := by
  have hbusy : c.busy = f.busy := by rw [h.eq]
  have hhung : c.hung = f.hung := by rw [h.eq]
  have hfetch := h.fetch
  unfold Machine.seqStep at hu ⊢
  rw [hbusy, hhung]
  split at hu
  next hidle =>
    cases hu
    exact ⟨c, if_pos hidle, h.keptOf⟩
  next hrun =>
    rw [if_neg hrun]
    generalize c.fetch = r at hfetch
    generalize f.fetch = q at hfetch hu
    cases hfetch with
    | ok w h' =>
      cases hd : decode w with
      | error e =>
        simp only [hd] at hu ⊢
        cases hu
        exact ⟨_, rfl, h'.keptOf.congr rfl rfl rfl rfl rfl⟩
      | ok i =>
        simp only [hd] at hu ⊢
        exact h'.exec hu
    | raise code info h' =>
      cases hu
      exact ⟨_, rfl, h'.keptOf.congr rfl rfl rfl rfl rfl⟩
    | stuck h' =>
      cases hu
      exact ⟨_, rfl, h'.keptOf.congr rfl rfl rfl rfl rfl⟩
    | past h' => exact h'.elim

end cut

/-! ### The reset itself (70_reset_and_hazards.md R245, R247) -/

/-- While no write may land, none does. -/
theorem primitivesKeep_noWrites (m : Memory) : PrimitivesKeep fun s => s.mem = m ∧ s.writesLeft = some 0 :=
  primitivesKeep_of_memory (fun _ _ _ _ h => h)
    (fun a n h => by rwa [(memRead_same a n _)])
    (fun {s} n a v h => by
      cases n with
      | zero => exact h
      | succ n =>
        have hno : s.writeByte a (BitVec.ofNat 8 v) = none := by rw [State.writeByte, if_neg (by simp [h.2])]
        rw [memWrite, hno]
        exact h)

theorem exec_noWrites {i : Instr} {s t : State} {m : Memory} (h : s.mem = m ∧ s.writesLeft = some 0)
    (he : exec i s = .next t) : t.mem = m ∧ t.writesLeft = some 0 := by
  rw [exec_sameButEnd he]
  refine commandWork_keeps (primitivesKeep_noWrites m) i h (fun c rs _ u hu => ?_) fun _ _ _ => h
  obtain ⟨hmem, -, hw⟩ := writeCsr_memory hu
  exact ⟨hmem.trans h.1, hw.trans h.2⟩

/-- A reset before the first write of a command leaves memory. -/
theorem cutShort_zero_mem (s : State) : (s.cutShort 0).mem = s.mem := by
  unfold State.cutShort
  split
  · next t ht =>
    exact (seqStep_keeps (s := { s with writesLeft := some 0 }) (P := fun u => u.mem = s.mem ∧ u.writesLeft = some 0)
      ⟨rfl, rfl⟩ ht
      (draws := fun _ hd => by rw [hd]; exact ⟨rfl, rfl⟩) (hang := fun _ _ hu => hu) (illegal := fun _ _ _ hu => hu)
      (command := fun _ _ _ _ hu hx => exec_noWrites hu hx)).1
  · rfl
  · rfl

/-- A block that does not run has no command to cut off. -/
theorem cutShort_of_idle {s : State} (h : s.busy = false ∨ s.hung = true) (kept : Nat) :
    (s.cutShort kept).mem = s.mem := by
  have hidle : (!s.busy || s.hung) = true := by rcases h with h | h <;> simp [h]
  have hstep : seqStep { s with writesLeft := some kept } = .next { s with writesLeft := some kept } := if_pos hidle
  rw [State.cutShort, hstep]

/-- Settles O60: the registers are those of the reset state; memory and the draws are those of the run cut off, which
goes in step with the whole run until its last write. -/
theorem resetInput : Obligations.ResetInput := by
  unfold Obligations.ResetInput
  intro s kept rest hin
  obtain ⟨hregs, hcsrs, -, -⟩ := resetValues
  refine ⟨_, step_of_inputs hin, hregs, fun c hc => ?_, rfl, rfl, rfl, rfl, rfl, fun hwhen => ?_,
    fun hstore u l hu hl => ?_⟩
  · rw [← hcsrs c hc]
    cases c <;> rfl
  · rw [State.resetWith_mem]
    rcases hwhen with hidle | hhung | rfl
    · exact cutShort_of_idle (s := { s with inputs := rest }) (.inl hidle) kept
    · exact cutShort_of_idle (s := { s with inputs := rest }) (.inr hhung) kept
    · exact cutShort_zero_mem { s with inputs := rest }
  · have hstart : InStep { s with inputs := [] } kept rest { s with inputs := rest, writesLeft := some kept }
        { s with inputs := [] } := ⟨[], .refl hstore.canonical, Nat.zero_le _, hstore.settled, rfl⟩
    obtain ⟨d, hd, hkept⟩ := hstart.seqStep ((step_of_no_inputs rfl).symm.trans hu)
    have hcut : State.cutShort { s with inputs := rest } kept = d := by
      rw [State.cutShort, show seqStep _ = .next d from hd]
    rw [hcut]
    exact hkept l hl

end Sys2Proof.Machine
end


section
/-!
SUPPORT and the statement about accesses that are not admitted (20_memory.md R62): StuckBlockStays.  Before it stand
how each primitive gets stuck, what that leaves of memory and RNG, the bytes a command stores (`StoresAdmitted`) and
what the host can change of a busy block.
-/

namespace Sys2Proof.Machine

theorem exec_of_work_stuck {i : Instr} {s t : State} (hi : i ≠ .stop) (h : commandWork i s = .stuck t) :
    exec i s = .next t.hang := by
  rw [exec_of_ne_stop hi, h]
  rfl

/-- A command that is stuck before it has any effect. -/
theorem exec_of_work_stuck_at_once {i : Instr} {s : State} {d : Nat} (hi : i ≠ .stop)
    (h : commandWork i s = .stuck { s with draws := d }) : exec i s = .next { s with hung := true, draws := d } :=
  exec_of_work_stuck hi h

/-! ### The fetch -/

theorem fetch_of_not_admitted {s : State} (h : ¬Admitted s s.cp 4) : ∃ d, s.fetch = .stuck { s with draws := d } := by
  obtain ⟨d, hd⟩ := memRead_stuck_of_not_admitted h
  exact ⟨d, by rw [State.fetch, hd, Res.bind_stuck]⟩

theorem seqStep_of_not_admitted {s : State} (hb : s.busy = true) (hh : s.hung = false) (h : ¬Admitted s s.cp 4) :
    ∃ d, seqStep s = .next { s with hung := true, draws := d } := by
  obtain ⟨d, hd⟩ := fetch_of_not_admitted h
  refine ⟨d, ?_⟩
  simp only [seqStep, hb, hh, hd, Bool.not_true, Bool.or_false, Bool.false_eq_true, if_false]
  rfl

/-! ### The reader -/

theorem peek_of_not_admitted {n : Nat} {s : State} (hcnt : s.br.cnt.toNat < n) (hrem : 4 ≤ s.br.rem.toNat)
    (h : ¬Admitted s s.br.ptr 4) : ∃ d, peek n s = .stuck { s with draws := d } := by
  obtain ⟨d, hd⟩ := memRead_stuck_of_not_admitted h
  exact ⟨d, by rw [peek_refill hcnt, refill, if_neg (Nat.not_lt.2 hrem), hd, Res.bind_stuck, Res.bind_stuck]⟩

theorem getBits_of_not_admitted {n : Nat} {s : State} (hcnt : s.br.cnt.toNat < n) (hrem : 4 ≤ s.br.rem.toNat)
    (h : ¬Admitted s s.br.ptr 4) : ∃ d, getBits n s = .stuck { s with draws := d } := by
  obtain ⟨d, hd⟩ := peek_of_not_admitted hcnt hrem h
  exact ⟨d, by rw [getBits_of_pos (Nat.zero_lt_of_lt hcnt), hd, Res.bind_stuck]⟩

theorem brPeek_of_not_admitted {rd : Reg} {n : BitVec 6} {s : State} (hn : n.toNat ≤ 32)
    (hcnt : s.br.cnt.toNat < n.toNat)
    (hrem : 4 ≤ s.br.rem.toNat) (h : ¬Admitted s s.br.ptr 4) :
    ∃ d, exec (.brPeek rd n) s = .next { s with hung := true, draws := d } := by
  obtain ⟨d, hd⟩ := peek_of_not_admitted hcnt hrem h
  refine ⟨d, exec_of_work_stuck_at_once (by simp) ?_⟩
  rw [commandWork, withCount_of_le hn, hd, Res.bind_stuck]

theorem brGet_of_not_admitted {rd : Reg} {n : BitVec 6} {s : State} (hn : n.toNat ≤ 32)
    (hcnt : s.br.cnt.toNat < n.toNat)
    (hrem : 4 ≤ s.br.rem.toNat) (h : ¬Admitted s s.br.ptr 4) :
    ∃ d, exec (.brGet rd n) s = .next { s with hung := true, draws := d } := by
  obtain ⟨d, hd⟩ := getBits_of_not_admitted hcnt hrem h
  refine ⟨d, exec_of_work_stuck_at_once (by simp) ?_⟩
  rw [commandWork, withCount_of_le hn, hd, Res.bind_stuck]

theorem dph_head_of_not_admitted {ra : Reg} {j : Phase} {s : State} (hv : s.tcValid = true) (hcnt : s.br.cnt.toNat < 11)
    (hrem : 4 ≤ s.br.rem.toNat) (h : ¬Admitted s s.br.ptr 4) :
    ∃ d, exec (.dcDph ra j) s = .next { s with hung := true, draws := d } := by
  obtain ⟨d, hd⟩ := getBits_of_not_admitted hcnt hrem h
  refine ⟨d, exec_of_work_stuck_at_once (by simp) ((commandWork_dcDph hv ra j).trans ?_)⟩
  rw [decodePhase, readHead, hd, Res.bind_stuck, Res.bind_stuck]

/-- The first word of a row is not admitted: its seed is never read. -/
theorem decodeRow_of_not_admitted {dst src : Word} {w : Nat} {s : State} (hlt : w < 2 ^ 32) (hrem : 4 ≤ w)
    (h : ¬Admitted s src 4) :
    ∃ t, decodeRow dst src w s = .stuck t ∧ t.mem = s.mem ∧ t.rng = s.rng := by
  have hw : (BitVec.ofNat 32 w).toNat = w := Nat.mod_eq_of_lt hlt
  obtain ⟨d, hd⟩ := peek_of_not_admitted (n := 16) (s := s.openReader src (BitVec.ofNat 32 w)) (Nat.zero_lt_succ 15)
    (hrem.trans_eq hw.symm) h
  rw [decodeRow, hd, Res.bind_stuck]
  exact ⟨_, rfl, rfl, rfl⟩

theorem decodeImage_of_not_admitted {dst src : Word} {w stride height : Nat} {s : State} (hlt : w < 2 ^ 32)
    (hrem : 4 ≤ w)
    (hpos : 0 < height) (h : ¬Admitted s src 4) :
    ∃ t, decodeImage dst src w stride height s = .stuck t ∧ t.mem = s.mem ∧ t.rng = s.rng := by
  obtain ⟨height, rfl⟩ := Nat.exists_eq_add_one_of_ne_zero hpos.ne'
  have hsrc : src + BitVec.ofNat 32 (0 * stride) = src := by rw [Nat.zero_mul, BitVec.add_zero]
  obtain ⟨t, ht, hmem, hrng⟩ := decodeRow_of_not_admitted (dst := dst + BitVec.ofNat 32 (2 * 0 * w)) hlt hrem
    (hsrc.symm ▸ h)
  exact ⟨t, by rw [decodeImage, forRange_succ, ht, Res.bind_stuck], hmem, hrng⟩

/-! ### The writer -/

theorem emitBytes_of_not_admits {s : State} (h : s.admits s.bw.ptr = false) (k acc : Nat) :
    emitBytes (k + 1) acc s = .stuck s := by
  rw [emitBytes, memWrite_succ_of_not_admits h, Res.bind_stuck]

/-- A push is stuck at the first of its bytes that is not admitted, the bytes before it written. -/
theorem push_of_not_admits {v n m : Nat} {s : State} (hw : s.writesLeft = none)
    (hrem : pushBytes s.bw n ≤ s.bw.rem.toNat) (hm : m < pushBytes s.bw n) (ha : Admitted s s.bw.ptr m)
    (h : s.admits (s.bw.ptr + BitVec.ofNat 32 m) = false) :
    push v n s = .stuck (s.emit m (pushAcc s.bw v n)) := by
  obtain ⟨k, hk⟩ := Nat.exists_eq_add_of_lt hm
  have hemit : emitBytes (m + k + 1) (pushAcc s.bw v n) s = .stuck (s.emit m (pushAcc s.bw v n)) :=
    (emitBytes_add hw ha (k + 1) _).trans (emitBytes_of_not_admits (s := s.emit m (pushAcc s.bw v n)) h k _)
  rw [push, if_neg (Nat.not_lt.2 hrem), hk, hemit, Res.bind_stuck]

theorem bwPut_of_not_admits {rs : Reg} {n : BitVec 6} {s : State} {m : Nat} (hn : n.toNat ≤ 32) (hinv : StreamInv s)
    (hstore : StoreInv s) (hrem : pushBytes s.bw n.toNat ≤ s.bw.rem.toNat) (hm : m < pushBytes s.bw n.toNat)
    (ha : Admitted s s.bw.ptr m) (h : s.admits (s.bw.ptr + BitVec.ofNat 32 m) = false) :
    ∃ t, exec (.bwPut rs n) s = .next t ∧
      t = { s with bw := t.bw, mem := t.mem, past := t.past, hung := true } ∧
      t.leValue m s.bw.ptr =
        (s.bw.acc.toNat + 2 ^ s.bw.cnt.toNat * ((s.getX rs).toNat % 2 ^ n.toNat)) % 256 ^ m ∧
      ∀ a, ¬InRange s.bw.ptr m a → t.byteAt a = s.byteAt a := by
  have hpush := push_of_not_admits (v := (s.getX rs).toNat) hstore.settled hrem hm ha h
  have hwf : (State.mem { s with bw := emitted s.bw m }).wf = true := hstore.canonical
  have hle : m ≤ 2 ^ 32 := (hm.le.trans hrem).trans s.bw.rem.isLt.le
  refine ⟨_, exec_of_work_stuck (by simp) ((commandWork_bwPut hn rs s).trans hpush), rfl, ?_, fun a hout => ?_⟩
  · rw [← pushAcc_eq hinv.writer]
    exact (State.leValue_congr (s := s.emit m _) (by rfl) _ _).trans (State.leValue_storeLE hwf hle _ _)
  · exact State.byteAt_storeLE_of_not_inRange hwf hout _

/-! ### The samples -/

/-- A write to a range with a byte that is not admitted is stuck. -/
theorem memWrite_of_not_admitted {n : Nat} {a : Word} {v : Nat} {s : State} (hw : s.writesLeft = none)
    (h : ¬Admitted s a n) : ∃ t, memWrite n a v s = .stuck t := by
  induction n generalizing a v s with
  | zero => exact absurd (fun _ ⟨_, hk, _⟩ => absurd hk (Nat.not_lt_zero _)) h
  | succ n ih =>
    by_cases ha : s.admits a = true
    · have hrest : ¬Admitted s (a + 1) n := fun hr => h (admitted_succ.2 ⟨ha, hr⟩)
      rw [memWrite, State.writeByte_ok ha hw]
      exact ih (s := s.storeByte false a (BitVec.ofNat 8 v)) hw hrest
    · exact ⟨s, memWrite_succ_of_not_admits (Bool.eq_false_of_not_eq_true ha) n v⟩

/-- The elements before the first slot that is not admitted are decoded, and its own is stuck. -/
theorem decodePhase_of_not_admitted {dst : Word} {j : Nat} {s : State} (hwf : s.mem.wf = true)
    (hle : phaseMin s.stream ≤ phaseMax s.stream) (hr : Ready (phaseBits s.stream) s) (hj : j < 2)
    (hv : s.tcValid = true) (hw : s.writesLeft = none) (h : ∃ i, i < 16 ∧ ¬Admitted s (sampleAddr dst j i) 2) :
    ∃ t, decodePhase dst j s = .stuck t := by
  classical
  obtain ⟨hlt, hbad⟩ := Nat.find_spec h
  have hbefore (i : Nat) (hi : i < Nat.find h) : Admitted s (sampleAddr dst j i) 2 :=
    not_not.1 fun hna => Nat.find_min h hi ⟨hi.trans hlt, hna⟩
  generalize Nat.find h = k at hlt hbad hbefore
  have hbits : bitsBefore s.stream (k + 1) ≤ phaseBits s.stream := bitsBefore_mono s.stream hlt
  have hsplit := Nat.add_sub_cancel' (bitsBefore_mono s.stream k.le_succ)
  obtain ⟨t, ht, htook⟩ := readHead_of_ready (hr.mono (Nat.le_add_right _ _)) hle
  obtain ⟨u, hu, hdec⟩ := decodeElements_of_ready (htook.decoded_zero hwf dst j)
    (hr.mono ((bitsBefore_mono s.stream k.le_succ).trans hbits)) hlt.le hj hv hw hbefore
  obtain ⟨v, r, hcode, hread, -, -⟩ := elementCode_of_ready hsplit.symm
    (Ready.rest (hsplit.symm ▸ hr.mono hbits) hdec.toAdvanced)
  obtain ⟨w, hstuck⟩ := memWrite_of_not_admitted (a := sampleAddr dst j k)
    (v := (ditherPixel (r.tcEntry (v <<< 1)) r.rng).toNat)
    (s := { r with rng := lcg r.rng }) (n := 2) (by rw [hread.frame, hdec.frame]; exact hw)
    fun ha => hbad (ha.congr (by rw [hread.frame, hdec.frame]))
  have helement : decodeElement dst j (streamHead s.stream) k u = .stuck w := by
    rw [decodeElement, hcode, Res.bind_ok, dither, Res.bind_ok, hstuck]
  refine ⟨w, ?_⟩
  rw [decodePhase, ht, Res.bind_ok, show 16 = k + (15 - k + 1) by omega, forRange_add, hu, Res.bind_ok,
    Nat.zero_add, forRange_succ, helement, Res.bind_stuck]

/-- Where a sample is not admitted the reads before any push are stuck, and leave at most draws. -/
theorem readCodes_of_not_admitted {src : Word} {j n i : Nat} {s : State}
    (h : ∃ k, i ≤ k ∧ k < i + n ∧ ¬Admitted s (sampleAddr src j k) 2) :
    ∃ d, readCodes src j n i s = .stuck { s with draws := d } := by
  induction n generalizing i s with
  | zero => obtain ⟨k, hle, hlt, -⟩ := h; omega
  | succ n ih =>
    by_cases ha : Admitted s (sampleAddr src j i) 2
    · obtain ⟨k, hle, hlt, hk⟩ := h
      have hne : k ≠ i := by rintro rfl; exact hk ha
      have hsame := memRead_same (sampleAddr src j i) 2 s
      cases hread : memRead (sampleAddr src j i) 2 s with
      | ok v t =>
        rw [hread, Res.final_ok] at hsame
        obtain ⟨d, hd⟩ := ih (i := i + 1) (s := t) ⟨k, by omega, by omega, fun hk' => hk (hk'.congr (by rw [hsame]))⟩
        exact ⟨d, by rw [readCodes, hread, Res.bind_ok, hd, Res.bind_stuck, hsame]⟩
      | raise c info t => exact (memRead_ne_raise _ _ _ _ _ _ hread).elim
      | stuck t =>
        rw [hread] at hsame
        exact ⟨t.draws, by rw [readCodes, hread, Res.bind_stuck]; exact congrArg Res.stuck hsame⟩
    · obtain ⟨d, hd⟩ := memRead_stuck_of_not_admitted ha
      exact ⟨d, by rw [readCodes, hd, Res.bind_stuck]⟩

theorem encodePhase_of_not_admitted {src : Word} {j : Nat} {s : State}
    (h : ∃ i, i < 16 ∧ ¬Admitted s (sampleAddr src j i) 2) :
    ∃ d, encodePhase src j s = .stuck { s with draws := d } := by
  obtain ⟨i, hi, hna⟩ := h
  obtain ⟨d, hd⟩ := readCodes_of_not_admitted (i := 0) (n := 16) ⟨i, i.zero_le, by omega, hna⟩
  exact ⟨d, by rw [encodePhase, hd, Res.bind_stuck]⟩

/-- A sample of the first phase of a row is not admitted: no phase is written. -/
theorem encodeRow_of_not_admitted {dst src : Word} {w : Nat} {s : State} (hw : 32 ≤ w)
    (h : ∃ i, i < 16 ∧ ¬Admitted s (sampleAddr src 0 i) 2) :
    ∃ t, encodeRow dst src w s = .stuck t ∧ t.mem = s.mem := by
  obtain ⟨n, hn⟩ := Nat.exists_eq_add_one_of_ne_zero (Nat.div_pos hw (by decide)).ne'
  have hsrc : blockAddr src 0 = src := by rw [blockAddr, Nat.mul_zero, BitVec.add_zero]
  obtain ⟨d, hd⟩ := encodePhase_of_not_admitted (src := blockAddr src 0) (j := 0)
    (s := s.openWriter dst (BitVec.ofNat 32 w)) (hsrc.symm ▸ h)
  rw [encodeRow_eq_blocks, hn, forBlocks, forRange_succ, forRange_succ, hd, Res.bind_stuck, Res.bind_stuck]
  exact ⟨_, rfl, rfl⟩

theorem encodeImage_of_not_admitted {dst src : Word} {w height : Nat} {s : State} (hw : 32 ≤ w) (hpos : 0 < height)
    (h : ∃ i, i < 16 ∧ ¬Admitted s (sampleAddr src 0 i) 2) :
    ∃ t, encodeImage dst src w height s = .stuck t ∧ t.mem = s.mem := by
  obtain ⟨height, rfl⟩ := Nat.exists_eq_add_one_of_ne_zero hpos.ne'
  have hsrc : src + BitVec.ofNat 32 (2 * 0 * w) = src := by rw [Nat.mul_zero, Nat.zero_mul, BitVec.add_zero]
  obtain ⟨t, ht, hmem⟩ := encodeRow_of_not_admitted (dst := dst + BitVec.ofNat 32 (0 * w)) hw (hsrc.symm ▸ h)
  exact ⟨t, by rw [encodeImage, forRange_succ, ht, Res.bind_stuck], hmem⟩

/-! ### What a command stores -/

/-- Every byte that has been stored since `s` is admitted. -/
def StoresAdmitted (s t : State) : Prop :=
  t.holes = s.holes ∧ ∃ l, t.past = l ++ s.past ∧ ∀ w ∈ l, s.admits w.addr = true

theorem memWrite_storesAdmitted {s t : State} (n : Nat) (a : Word) (v : Nat) (h : StoresAdmitted s t) :
    StoresAdmitted s (memWrite n a v t).final := by
  induction n generalizing a v t with
  | zero => exact h
  | succ n ih =>
    unfold memWrite
    split
    next => exact h
    next u hu =>
      obtain ⟨ha, -, rfl⟩ := State.writeByte_eq_some hu
      obtain ⟨hholes, l, hl, hadm⟩ := h
      have haddr : s.admits a = true := by rwa [State.admits, hholes] at ha
      exact ih (a + 1) (v / 256) ⟨hholes, _ :: l, congrArg (_ :: ·) hl, List.forall_mem_cons.2 ⟨haddr, hadm⟩⟩

theorem primitivesKeep_storesAdmitted (s : State) : PrimitivesKeep (StoresAdmitted s) :=
  primitivesKeep_of_memory (fun _ _ _ _ h => h)
    (fun a n h => by rw [memRead_same a n _]; exact h)
    (fun n a v h => memWrite_storesAdmitted n a v h)

theorem exec_storesAdmitted {i : Instr} {s t : State} (h : exec i s = .next t) : StoresAdmitted s t := by
  have hnone : StoresAdmitted s s := ⟨rfl, [], rfl, fun _ hw => absurd hw List.not_mem_nil⟩
  rw [exec_sameButEnd h]
  exact commandWork_keeps (primitivesKeep_storesAdmitted s) i hnone
    (fun c _ _ _ ht => by cases c <;> cases ht <;> exact hnone) (fun _ _ _ => hnone)

/-! ### A stuck block -/

/-- Only a stuck access sets the stuck condition, and it reaches no register. -/
theorem exec_hung {i : Instr} {s t : State} (hh : s.hung = false) (h : exec i s = .next t) (ht : t.hung = true) :
    t.busy = s.busy ∧ t.fault = s.fault ∧ t.faultCode = s.faultCode ∧ t.faultInfo = s.faultInfo ∧
      t.irq = s.irq ∧ t.cp = s.cp ∧ t.cmdCount = s.cmdCount ∧ ∀ r, t.getX r = s.getX r := by
  have hseq := commandWork_sequencer i s
  have hc := hseq.control
  rcases exec_cases h with ⟨_, rfl⟩ | ⟨_, ⟨u, hu, rfl⟩ | ⟨c, info, u, hu, rfl⟩ | ⟨u, hu, rfl⟩⟩
  · exact absurd (ht.symm.trans hh) (by decide)
  · rw [hu] at hc
    exact absurd (ht.symm.trans (hc.hung.trans hh)) (by decide)
  · rw [hu] at hc
    exact absurd (ht.symm.trans (hc.hung.trans hh)) (by decide)
  · have hx := (interrupted_same (i := i) (s := s) (by simp [hu])).1
    rw [hu] at hseq hc hx
    refine ⟨hc.busy, hc.fault, hc.faultCode, hc.faultInfo, ?_, hseq.cp, hseq.cmdCount, fun r => ?_⟩
    · simp only [State.irq, State.hang, ← hc.done, ← hc.ieDone, ← hc.fault, ← hc.ieFault]
      rfl
    · rw [State.getX, State.getX, ← hx]
      rfl

/-- The stuck condition, BUSY, CP and CMD_COUNT are the same. -/
def StaysStuck (s t : State) : Prop :=
  (t.hung, t.busy, t.cp, t.cmdCount) = (s.hung, s.busy, s.cp, s.cmdCount)

theorem hostWrite_staysStuck {s : State} (hb : s.busy = true) (off : Nat) (v : Word) :
    StaysStuck s (s.hostWrite off v) := by
  unfold State.hostWrite
  split
  next c _ =>
    rw [if_pos hb]
    cases c <;> rfl
  next => rw [if_pos hb]; rfl
  next => rfl

/-- No access of the host reaches the sequencer of a busy block. -/
theorem hostStep_staysStuck {e : HostEvent} {s t : State} (hb : s.busy = true) (hq : e ≠ .seq)
    (hr : ∀ kept, e ≠ .reset kept)
    (h : hostStep e s = .next t) : StaysStuck s t := by
  cases e with
  | seq => exact absurd rfl hq
  | regWrite addr size v =>
    rcases windowAccess_cases h with ⟨off, _, _, _, _, rfl⟩ | rfl
    · exact hostWrite_staysStuck hb off v
    · rfl
  | regRead addr size =>
    rcases windowAccess_cases h with ⟨off, _, _, _, _, rfl⟩ | rfl
    · rcases hostRead_cases s off with hg | ⟨v, hg⟩ <;> rw [hg] <;> rfl
    · rfl
  | memWrite a b =>
    obtain ⟨_, rfl⟩ := memoryAccess_cases h
    rcases hostStore_cases s a b with hg | hg <;> rw [hg] <;> rfl
  | memRead a =>
    obtain ⟨_, rfl⟩ := memoryAccess_cases h
    rcases hostLoad_cases s a with ⟨v, hg⟩ | ⟨v, hg⟩ <;> rw [hg] <;> rfl
  | reset kept => exact absurd rfl (hr kept)

theorem seqStep_of_hung {s : State} (h : s.hung = true) : seqStep s = .next s :=
  if_pos (by rw [h, Bool.or_true])

/-- No event but a reset recovers a stuck block. -/
theorem step_of_hung {s t : State} {e : HostEvent} {rest : List HostEvent} (hh : s.hung = true) (hb : s.busy = true)
    (hin : s.inputs = e :: rest) (hr : ∀ kept, e ≠ .reset kept) (h : step s = .next t) :
    t.hung = true ∧ t.busy = true ∧ t.cp = s.cp ∧ t.cmdCount = s.cmdCount ∧
      (e = .seq → t = { s with inputs := rest }) := by
  rw [step_of_inputs hin] at h
  by_cases hq : e = .seq
  · subst hq
    obtain rfl := Host.Outcome.next.inj ((seqStep_of_hung (s := { s with inputs := rest }) hh).symm.trans h)
    exact ⟨hh, hb, rfl, rfl, fun _ => rfl⟩
  · have hkept := hostStep_staysStuck (s := { s with inputs := rest }) hb hq hr h
    simp only [StaysStuck, Prod.mk.injEq] at hkept
    obtain ⟨hhung, hbusy, hcp, hcount⟩ := hkept
    exact ⟨hhung.trans hh, hbusy.trans hb, hcp, hcount, fun he => absurd he hq⟩

/-! ### The obligation -/

/-- Settles O8: each access that is not admitted ends its primitive, and with it the command, in a stuck state; of that
state the sequencer makes no move and the host reaches only what it may reach of a busy block. -/
theorem stuckBlockStays : Obligations.StuckBlockStays := by
  unfold Obligations.StuckBlockStays
  refine ⟨fun s hin hb hh h => ?fetch, fun rd n s hn hcnt hrem h => ?reader,
    fun rs n s m hn hinv hstore hrem hm ha h => bwPut_of_not_admits hn hinv hstore hrem hm ha h,
    fun ra j s hv => ⟨fun hcnt hrem h => dph_head_of_not_admitted hv hcnt hrem h,
      fun hinv hstore hle henough hset _ h => ?slot, fun h => ?sample⟩,
    fun ra rb s hv hpos hmul => ⟨fun h => ⟨?drow, fun hheight hstride hlen => ?dec⟩,
      fun h => ⟨?erow, fun hheight => ?enc⟩⟩,
    fun i s t l h hl => ?stores, fun i s t hb hh h ht => ?registers,
    fun s hh hb => ⟨fun hin => ?idle, fun e rest t hin hr h => step_of_hung hh hb hin hr h,
      fun kept rest hin => ?reset⟩⟩
  case fetch =>
    rw [step_of_no_inputs hin]
    exact seqStep_of_not_admitted hb hh h
  case reader => exact ⟨brPeek_of_not_admitted hn hcnt hrem h, brGet_of_not_admitted hn hcnt hrem h⟩
  case slot =>
    have hready := (windowReady_of_settled hinv.reader hset).mono henough
    obtain ⟨t, ht⟩ := decodePhase_of_not_admitted hstore.canonical hle hready j.isLt hv hstore.settled h
    exact ⟨_, exec_of_work_stuck (by simp) ((commandWork_dcDph hv ra j).trans ht), rfl⟩
  case sample =>
    obtain ⟨d, hd⟩ := encodePhase_of_not_admitted h
    exact ⟨d, exec_of_work_stuck_at_once (by simp) ((commandWork_dcEph hv ra j).trans hd)⟩
  case drow =>
    obtain ⟨t, ht, hmem, hrng⟩ := decodeRow_of_not_admitted (dst := s.getX ra) s.gWidth.isLt (by omega) h
    exact ⟨_, exec_of_work_stuck (by simp) ((commandWork_dcDrow hv hpos hmul ra rb).trans ht), rfl, hmem, hrng⟩
  case dec =>
    have hrow : (if s.gStride.toNat = 0 then s.gWidth.toNat else s.gStride.toNat) = s.rowStride := by
      rw [State.rowStride, ite_not]
    have hle : s.gWidth.toNat ≤ s.rowStride := by
      rw [← hrow]
      split <;> omega
    obtain ⟨t, ht, hmem, hrng⟩ := decodeImage_of_not_admitted (dst := s.getX ra) (stride := s.rowStride) s.gWidth.isLt
      (by omega) hheight h
    exact ⟨_, exec_of_work_stuck (by simp)
      ((commandWork_dcDec hv hpos hmul hle (fun _ => hrow ▸ hlen) ra rb).trans ht), rfl, hmem, hrng⟩
  case erow =>
    obtain ⟨t, ht, hmem⟩ := encodeRow_of_not_admitted (dst := s.getX ra) (w := s.gWidth.toNat) (by omega) h
    exact ⟨_, exec_of_work_stuck (by simp) ((commandWork_dcErow hv hpos hmul ra rb).trans ht), rfl, hmem⟩
  case enc =>
    obtain ⟨t, ht, hmem⟩ := encodeImage_of_not_admitted (dst := s.getX ra) (w := s.gWidth.toNat) (by omega) hheight h
    exact ⟨_, exec_of_work_stuck (by simp) ((commandWork_dcEnc hv hpos hmul ra rb).trans ht), rfl, hmem⟩
  case stores =>
    obtain ⟨-, l', hl', hadm⟩ := exec_storesAdmitted h
    obtain rfl := List.append_cancel_right (hl.symm.trans hl')
    exact hadm
  case registers =>
    obtain ⟨hbusy, hrest⟩ := exec_hung hh h ht
    exact ⟨hbusy.trans hb, hrest⟩
  case idle => rw [step_of_no_inputs hin, seqStep_of_hung hh]
  case reset => exact ⟨_, step_of_inputs hin, rfl, rfl⟩

end Sys2Proof.Machine
end
